-- ==== Sys2Proof/Word.lean ====
section
/-! DEFINITION. The word types of ITSR (00_scope.md R9, R71): fixed-width values with bit 0 least significant (R8). -/

namespace Sys2Proof

/-- A register offset or an operation code. -/
abbrev U8 := BitVec 8

/-- A slot index, window index or anchor as a label carries it (30_encoding.md R72). -/
abbrev U16 := BitVec 16

/-- The A field of an operation word (R71). -/
abbrev U24 := BitVec 24

/-- An interval, a clock sample, a threshold or a register word (00_scope.md R5). -/
abbrev U32 := BitVec 32

/-- A decoded word, the accumulator, or an operation word. -/
abbrev U64 := BitVec 64

end Sys2Proof
end

