-- ==== Sys2Proof/Config.lean ====
section
/-! DEFINITION. The implementation parameters of 00_scope.md R5. They are the run's argument and no step writes
them; State carries them as the field cfg, so that a statement about every state is a statement about every
configuration (log 1). ITSR has no free value beside the OPEN parameters LAST0 and RING_INIT. -/

namespace Sys2Proof

/-- Which ring slot a fired trigger gives as window start (00_scope.md R5, decision D6). -/
inductive AnchorMode where
  | afterAdvance
  | atSample
  deriving DecidableEq, Repr

/-- When the word-emission check runs (00_scope.md R5, decision D10). -/
inductive EmitMode where
  | level
  | onDecrement
  deriving DecidableEq, Repr

/-- The parameters of 00_scope.md R5. -/
structure Config where
  /-- N: ring capacity and window length. -/
  n : Nat
  /-- C: channel capacity. -/
  c : Nat
  /-- W: word slots per decode. -/
  w : Nat
  anchorMode : AnchorMode
  emitMode : EmitMode
  /-- LAST0: OPEN, any value (decision D3). -/
  last0 : U32
  /-- RING_INIT: OPEN, any N values (decision D4). Slots past the end of the list start at 0, slots past N are
  ignored, so every RING_INIT is some list (log 3). -/
  ringInit : List U32
  deriving DecidableEq, Repr

namespace Config

/-- Well-formed configuration (00_scope.md R7): 1 ≤ N, C, W ≤ 65535. -/
def wf (c : Config) : Bool :=
  decide (1 ≤ c.n) && decide (c.n ≤ 65535) && decide (1 ≤ c.c) && decide (c.c ≤ 65535) &&
    decide (1 ≤ c.w) && decide (c.w ≤ 65535)

/-- RING_INIT[i] (00_scope.md R5). -/
def ringAt (c : Config) (i : Nat) : U32 := c.ringInit.getD i 0

/-- The contents of the ring after reset: N samples (10_state.md R23). -/
def initialRing (c : Config) : List U32 := (List.range c.n).map c.ringAt

/-- The configuration of State.reset. DESIGN CHOICE: the source's examples N = 1700, C = 8, W = 16, the defaults
AFTER_ADVANCE and LEVEL (log 1), and LAST0 = 0, RING_INIT all zero as 95_test_vectors.md takes them (log 2). -/
def sourceExamples : Config where
  n := 1700
  c := 8
  w := 16
  anchorMode := .afterAdvance
  emitMode := .level
  last0 := 0
  ringInit := []

end Config

end Sys2Proof
end

