-- ==== Sys2Proof/Syntax.lean ====
section
/-! DEFINITION. The operations of ITSR as terms: one constructor of Instr per row of spec/opcode_table.json
(30_encoding.md R73 to R76, R84), and the symbol sets they carry (00_scope.md R12). -/

namespace Sys2Proof

/-- The ternary symbol (00_scope.md R12). -/
inductive Sym where
  | low
  | mid
  | high
  deriving DecidableEq, Repr

/-- The pairing state: the pending half of a pair, or NONE (00_scope.md R12, 10_state.md R26). -/
inductive Prev where
  | low
  | mid
  | none
  deriving DecidableEq, Repr

/-- The sixteen operation codes (30_encoding.md R84). -/
inductive Opcode where
  | edge | cstep | regwr | regrd | reset
  | chsend | chrecv | push | trigchk | winrd | classify | decinit | pairstep | emitchk | extract | output
  deriving DecidableEq, Repr

/-- The operations. Stimulus words first (R73 to R75), then label words (R76). -/
inductive Instr where
  /-- EDGE (R100): now, the clock sample. -/
  | edge (now : U32)
  /-- CSTEP (R186). -/
  | cstep
  /-- REGWR (R190): byte offset and data. -/
  | regwr (off : U8) (data : U32)
  /-- REGRD (R194): byte offset. -/
  | regrd (off : U8)
  /-- RESET (R230). -/
  | reset
  /-- CHSEND (R101): ACC (result), interval. -/
  | chsend (acc : Bool) (iv : U32)
  /-- CHRECV (R102): the interval returned (result). -/
  | chrecv (iv : U32)
  /-- PUSH (R120): slot written (result), interval. -/
  | push (slot : U16) (iv : U32)
  /-- TRIGCHK (R124): fired and anchor (results), interval. -/
  | trigchk (fired : Bool) (anchor : U16) (iv : U32)
  /-- WINRD (R125): window index, sample read (result). -/
  | winrd (k : U16) (x : U32)
  /-- CLASSIFY (R140): symbol (result), sample. -/
  | classify (sym : Sym) (x : U32)
  /-- DECINIT (R141): anchor, carried for the label only. -/
  | decinit (anchor : U16)
  /-- PAIRSTEP (R143): symbol; PREV and BP before the step; pair closed, bit set, overrun (results). -/
  | pairstep (sym : Sym) (prev : Prev) (bp : BitVec 7) (closed bitset ov : Bool)
  /-- EMITCHK (R144): emitted, slot written, value emitted (results). -/
  | emitchk (emitted : Bool) (slot : U16) (value : U64)
  /-- EXTRACT (R170): values collected and words scanned (results). -/
  | extract (n : BitVec 2) (wc : U16)
  /-- OUTPUT (R175): the two values of the reading. -/
  | output (a b : U64)
  deriving DecidableEq, Repr

end Sys2Proof
end

