-- ==== Sys2Proof/WellFormed.lean ====
section
/-! DEFINITION. The terms of Instr that some word spells (30_encoding.md R76, R78): a TRIGCHK that did not fire
carries anchor 0, an EMITCHK that did not emit carries slot 0 and no payload, and an EXTRACT collects at most two
values. Codes 3 of SYM and PREV cannot be written as a term. -/

namespace Sys2Proof

/-- Whether a word spells the term (R76, R78). -/
def Instr.wf : Instr → Bool
  | .edge _ => true
  | .cstep => true
  | .regwr _ _ => true
  | .regrd _ => true
  | .reset => true
  | .chsend _ _ => true
  | .chrecv _ => true
  | .push _ _ => true
  | .trigchk fired anchor _ => fired || decide (anchor = 0)
  | .winrd _ _ => true
  | .classify _ _ => true
  | .decinit _ => true
  | .pairstep _ _ _ _ _ _ => true
  | .emitchk emitted slot value => emitted || (decide (slot = 0) && decide (value = 0))
  | .extract n _ => decide (n ≠ 3)
  | .output _ _ => true

end Sys2Proof
end

