-- ==== Sys2Proof/Decode.lean ====
section
/-! DEFINITION. Decoding operation words, total on any list of 64-bit words and rejecting by name, and the encoder
written from the same tables (30_encoding.md R71 to R86). A word has no byte order (20_memory.md R52): the decoder
reads words, not bytes. -/

namespace Sys2Proof

/-- Why a list of words spells no operation. -/
inductive DecodeError where
  /-- No word at all. -/
  | noWord
  /-- OP is not one of R84's sixteen codes (R78). -/
  | reservedOp
  /-- A bit is set where R73 to R76 require 0 (R78). -/
  | mustBeZero
  /-- A CLASSIFY or PAIRSTEP whose SYM is 3 (R78). -/
  | reservedSym
  /-- A PAIRSTEP whose PREV is 3 (R78). -/
  | reservedPrev
  /-- An EXTRACT whose n is 3 (R78). -/
  | reservedCount
  /-- The first word is a label word that passes R78, and a payload word of R77 is missing (log 13). -/
  | missingPayload
  deriving DecidableEq, Repr

/-! ### The fields of a word (R71) -/

/-- OP, bits [63:56]. -/
def opOf (w : U64) : U8 := w.extractLsb' 56 8

/-- A, bits [55:32]. -/
def auxOf (w : U64) : U24 := w.extractLsb' 32 24

/-- D, bits [31:0]. -/
def dataOf (w : U64) : U32 := w.extractLsb' 0 32

/-- The word with fields OP, A, D (R71). -/
def mkWord (op : U8) (a : U24) (d : U32) : U64 := op ++ a ++ d

/-! ### The opcode map (R84, R85) -/

namespace Opcode

/-- All sixteen, in the order of R84. -/
def all : List Opcode :=
  [.edge, .cstep, .regwr, .regrd, .reset, .chsend, .chrecv, .push, .trigchk, .winrd, .classify, .decinit,
   .pairstep, .emitchk, .extract, .output]

/-- The OP value (R84). -/
def byte : Opcode → U8
  | .edge => 0x01
  | .cstep => 0x02
  | .regwr => 0x03
  | .regrd => 0x04
  | .reset => 0x05
  | .chsend => 0x10
  | .chrecv => 0x11
  | .push => 0x12
  | .trigchk => 0x13
  | .winrd => 0x14
  | .classify => 0x15
  | .decinit => 0x16
  | .pairstep => 0x17
  | .emitchk => 0x18
  | .extract => 0x19
  | .output => 0x1A

/-- The operation an OP value names, if any (R84). -/
def ofByte (b : U8) : Option Opcode := all.find? (fun o => decide (o.byte = b))

/-- The bits of A that must be 0, as a mask over A (R85). -/
def auxZero : Opcode → U24
  | .edge => 0xFFFFFF
  | .cstep => 0xFFFFFF
  | .regwr => 0xFFFF00
  | .regrd => 0xFFFF00
  | .reset => 0xFFFFFF
  | .chsend => 0xFFFFFE
  | .chrecv => 0xFFFFFF
  | .push => 0xFF0000
  | .trigchk => 0x7F0000
  | .winrd => 0xFF0000
  | .classify => 0xFFFFFC
  | .decinit => 0xFF0000
  | .pairstep => 0xFFC000
  | .emitchk => 0x7F0000
  | .extract => 0x0000FC
  | .output => 0xFFFFFF

/-- The bits of D that must be 0, as a mask over D (R85). -/
def dataZero : Opcode → U32
  | .edge => 0
  | .cstep => 0xFFFFFFFF
  | .regwr => 0
  | .regrd => 0xFFFFFFFF
  | .reset => 0xFFFFFFFF
  | .chsend => 0
  | .chrecv => 0
  | .push => 0
  | .trigchk => 0
  | .winrd => 0
  | .classify => 0
  | .decinit => 0xFFFFFFFF
  | .pairstep => 0xFFFFFFFF
  | .emitchk => 0xFFFFFFFF
  | .extract => 0xFFFFFFFF
  | .output => 0xFFFFFFFF

/-- The mask of R85: OP's bits and every bit that must be 0. -/
def mask (o : Opcode) : U64 := mkWord 0xFF o.auxZero o.dataZero

/-- The match value of R85: OP shifted to bits [63:56]. -/
def pattern (o : Opcode) : U64 := mkWord o.byte 0 0

/-- Whether the operation may be a stimulus word (R79). -/
def isStimulus : Opcode → Bool
  | .edge | .cstep | .regwr | .regrd | .reset => true
  | .chsend | .chrecv | .push | .trigchk | .winrd | .classify | .decinit | .pairstep | .emitchk | .extract
  | .output => false

end Opcode

/-! ### Value codes (R80) -/

/-- The 2-bit code of a symbol. -/
def Sym.code : Sym → BitVec 2
  | .low => 0
  | .mid => 1
  | .high => 2

/-- The symbol of a code; 3 is reserved. -/
def Sym.ofCode (c : BitVec 2) : Option Sym :=
  if c = 0 then some .low else if c = 1 then some .mid else if c = 2 then some .high else Option.none

/-- The 2-bit code of a pairing state. -/
def Prev.code : Prev → BitVec 2
  | .low => 0
  | .mid => 1
  | .none => 2

/-- The pairing state of a code; 3 is reserved. -/
def Prev.ofCode (c : BitVec 2) : Option Prev :=
  if c = 0 then some .low else if c = 1 then some .mid else if c = 2 then some .none else Option.none

/-! ### The decoder -/

/-- The operand fields of a word whose OP is `o` and whose must-be-zero bits are 0, with the value checks of R76
and R78 and the payload words of R77 taken from `rest`. -/
def decodeOperands (o : Opcode) (a : U24) (d : U32) (rest : List U64) : Except DecodeError (Instr × List U64) :=
  match o with
  | .edge => .ok (.edge d, rest)
  | .cstep => .ok (.cstep, rest)
  | .regwr => .ok (.regwr (a.extractLsb' 0 8) d, rest)
  | .regrd => .ok (.regrd (a.extractLsb' 0 8), rest)
  | .reset => .ok (.reset, rest)
  | .chsend => .ok (.chsend (a.getLsbD 0) d, rest)
  | .chrecv => .ok (.chrecv d, rest)
  | .push => .ok (.push (a.extractLsb' 0 16) d, rest)
  | .trigchk =>
    if a.getLsbD 23 = true ∨ a.extractLsb' 0 16 = 0#16 then
      .ok (.trigchk (a.getLsbD 23) (a.extractLsb' 0 16) d, rest)
    else .error .mustBeZero
  | .winrd => .ok (.winrd (a.extractLsb' 0 16) d, rest)
  | .classify =>
    match Sym.ofCode (a.extractLsb' 0 2) with
    | some s => .ok (.classify s d, rest)
    | none => .error .reservedSym
  | .decinit => .ok (.decinit (a.extractLsb' 0 16), rest)
  | .pairstep =>
    match Sym.ofCode (a.extractLsb' 0 2), Prev.ofCode (a.extractLsb' 2 2) with
    | some s, some p =>
      .ok (.pairstep s p (a.extractLsb' 4 7) (a.getLsbD 11) (a.getLsbD 12) (a.getLsbD 13), rest)
    | none, _ => .error .reservedSym
    | some _, none => .error .reservedPrev
  | .emitchk =>
    if a.getLsbD 23 = true then
      match rest with
      | v :: rest' => .ok (.emitchk true (a.extractLsb' 0 16) v, rest')
      | [] => .error .missingPayload
    else if a.extractLsb' 0 16 = 0#16 then .ok (.emitchk false 0 0, rest)
    else .error .mustBeZero
  | .extract =>
    if a.extractLsb' 0 2 = 3#2 then .error .reservedCount
    else .ok (.extract (a.extractLsb' 0 2) (a.extractLsb' 8 16), rest)
  | .output =>
    match rest with
    | x :: y :: rest' => .ok (.output x y, rest')
    | _ => .error .missingPayload

/-- Decode one operation from the front of a list of words: the operation and the words after it (R71 to R78, R85). -/
def decode : List U64 → Except DecodeError (Instr × List U64)
  | [] => .error .noWord
  | w :: rest =>
    match Opcode.ofByte (opOf w) with
    | none => .error .reservedOp
    | some o =>
      if auxOf w &&& o.auxZero = 0#24 ∧ dataOf w &&& o.dataZero = 0#32 then
        decodeOperands o (auxOf w) (dataOf w) rest
      else .error .mustBeZero

/-- The number of words of an operation, from its first word alone (R77). -/
def wordCount (w : U64) : Nat :=
  if opOf w = Opcode.emitchk.byte then (if (auxOf w).getLsbD 23 then 2 else 1)
  else if opOf w = Opcode.output.byte then 3
  else 1

/-! ### The encoder -/

namespace Instr

/-- The operation code of a term. -/
def opcode : Instr → Opcode
  | .edge _ => .edge
  | .cstep => .cstep
  | .regwr _ _ => .regwr
  | .regrd _ => .regrd
  | .reset => .reset
  | .chsend _ _ => .chsend
  | .chrecv _ => .chrecv
  | .push _ _ => .push
  | .trigchk _ _ _ => .trigchk
  | .winrd _ _ => .winrd
  | .classify _ _ => .classify
  | .decinit _ => .decinit
  | .pairstep _ _ _ _ _ _ => .pairstep
  | .emitchk _ _ _ => .emitchk
  | .extract _ _ => .extract
  | .output _ _ => .output

/-- Whether the operation may be a stimulus word (R79). -/
def isStimulus (i : Instr) : Bool := i.opcode.isStimulus

/-- The A field (R73 to R76). -/
def aux : Instr → U24
  | .edge _ => 0
  | .cstep => 0
  | .regwr off _ => 0#16 ++ off
  | .regrd off => 0#16 ++ off
  | .reset => 0
  | .chsend acc _ => 0#23 ++ BitVec.ofBool acc
  | .chrecv _ => 0
  | .push slot _ => 0#8 ++ slot
  | .trigchk fired anchor _ => BitVec.ofBool fired ++ 0#7 ++ anchor
  | .winrd k _ => 0#8 ++ k
  | .classify sym _ => 0#22 ++ sym.code
  | .decinit anchor => 0#8 ++ anchor
  | .pairstep sym prev bp closed bitset ov =>
    0#10 ++ BitVec.ofBool ov ++ BitVec.ofBool bitset ++ BitVec.ofBool closed ++ bp ++ prev.code ++ sym.code
  | .emitchk emitted slot _ => BitVec.ofBool emitted ++ 0#7 ++ slot
  | .extract n wc => wc ++ 0#6 ++ n
  | .output _ _ => 0

/-- The D field (R73 to R76). -/
def data : Instr → U32
  | .edge now => now
  | .cstep => 0
  | .regwr _ d => d
  | .regrd _ => 0
  | .reset => 0
  | .chsend _ iv => iv
  | .chrecv iv => iv
  | .push _ iv => iv
  | .trigchk _ _ iv => iv
  | .winrd _ x => x
  | .classify _ x => x
  | .decinit _ => 0
  | .pairstep _ _ _ _ _ _ => 0
  | .emitchk _ _ _ => 0
  | .extract _ _ => 0
  | .output _ _ => 0

/-- The payload words (R76, R77). -/
def payload : Instr → List U64
  | .edge _ => []
  | .cstep => []
  | .regwr _ _ => []
  | .regrd _ => []
  | .reset => []
  | .chsend _ _ => []
  | .chrecv _ => []
  | .push _ _ => []
  | .trigchk _ _ _ => []
  | .winrd _ _ => []
  | .classify _ _ => []
  | .decinit _ => []
  | .pairstep _ _ _ _ _ _ => []
  | .emitchk emitted _ value => if emitted then [value] else []
  | .extract _ _ => []
  | .output a b => [a, b]

end Instr

/-- The words of a well-formed operation (R73 to R77). -/
def encode (i : Instr) : List U64 := mkWord i.opcode.byte i.aux i.data :: i.payload

/-! ### The host's table words -/

/-- The three words an operation has at most, from the table's numbering of its bits: bit 0 is the least significant
bit of the first word, a later word's bits count on, and every bit from nbits up is 0 (log 14). -/
def tableWords (nbits w : Nat) : List U64 :=
  [BitVec.ofNat 64 (w % 2 ^ nbits), BitVec.ofNat 64 ((w % 2 ^ nbits) / 2 ^ 64),
   BitVec.ofNat 64 ((w % 2 ^ nbits) / 2 ^ 128)]

/-- The operation the decoder reads from the table's bits. -/
def decodeTableWord (nbits w : Nat) : Option Instr :=
  match decode (tableWords nbits w) with
  | .ok (i, _) => some i
  | .error _ => none

end Sys2Proof
end

