-- ==== Sys2Proof/Machine/State.lean ====
section
/-! DEFINITION. The state of ITSR (10_state.md), its stop reasons, and the state a run starts in
(70_reset_and_hazards.md R231, R232). -/

namespace Sys2Proof.Machine

/-- Why a step has no next state and refuses nothing. ITSR has no trap (60_exceptions.md R210); these name the ways
the spec's step relation has no transition. -/
inductive Fault where
  /-- Raised by CSTEP, and by CHRECV on an empty channel: the consumer is held, the word has no transition and the
  program is stuck at it (45_sequencer_host.md R185, 70_reset_and_hazards.md R242 (b)). Safe. -/
  | consumerHeld
  /-- Raised by step when no stimulus word is left: the run is completed (R242 (a)). Safe. -/
  | completed
  /-- Raised by step in a state marked refused: no agent takes a step after a refusal (60_exceptions.md R215). Safe. -/
  | runRefused
  deriving DecidableEq, Repr

/-- Why the model gives an input no meaning: the closed set of 60_exceptions.md R215, and the reason an operation that
had no meaning yet would be rejected with. -/
inductive Refusal where
  /-- Raised by step on a word that spells no operation (30_encoding.md R78). Safe. -/
  | encoding
  /-- Raised by step on a label word given as a stimulus (30_encoding.md R79). Safe. -/
  | notStimulus
  /-- Raised by REGWR and REGRD at an offset with bits [1:0] not 0 (20_memory.md R53). Safe. -/
  | misaligned
  /-- Raised by step under a configuration outside 00_scope.md R7. Safe. -/
  | badParam
  /-- Raised by an arm of exec without a meaning: no arm has it now. Safe. -/
  | notModelled (mnemonic : String)
  deriving DecidableEq, Repr

/-- The PulseDecoder's state (10_state.md R24 to R27) with the two values PAIRSTEP hands to EMITCHK
(43_decoder.md R144, log 6). -/
structure Decoder where
  /-- The 64-bit word under construction (R24). -/
  acc : U64
  /-- The bit-position counter, 7-bit two's complement (R25). -/
  bitpos : BitVec 7
  /-- The pending half-pair (R26). -/
  prev : Prev
  /-- The word buffer, W slots (R27); slots at index wc and above are never read. -/
  words : List U64
  /-- The buffer's fill count (R27). -/
  wc : Nat
  /-- Whether the latest PAIRSTEP closed a pair (R143). -/
  closed : Bool
  /-- bitpos before the latest PAIRSTEP (R144). -/
  bitposBefore : BitVec 7
  deriving DecidableEq, Repr

/-- The WordExtractor's collected values (10_state.md R28). -/
structure Collected where
  n : Nat
  a : U64
  b : U64
  deriving DecidableEq, Repr

/-- What one PAIRSTEP computes (43_decoder.md R143): the new acc, bitpos and prev, and the three local flags. -/
structure PairResult where
  acc : U64
  bitpos : BitVec 7
  prev : Prev
  closed : Bool
  bitset : Bool
  ov : Bool
  deriving DecidableEq, Repr

/-- The host registers at the offsets of 10_state.md R30; an offset without one is reserved (R39). -/
inductive HostReg where
  | paramN | paramQ | paramM | ctrl | status | t1 | t2 | trig | rdaLo | rdaHi | rdbLo | rdbHi | rdcnt | trgcnt | lastwc
  deriving DecidableEq, Repr

/-- The conditions of 60_exceptions.md R212 that a step of ITSR can meet. TXFAIL is the collaborator's (R216). -/
inductive Condition where
  | drop | underflow | trunc | overrun | badcfg | cfgwe
  deriving DecidableEq, Repr

end Sys2Proof.Machine

namespace Sys2Proof.Machine

/-- The state of ITSR and of the model around it. INVENTORY.md's '## State' lists each field with its rule. -/
structure State where
  /-- The run's parameters (00_scope.md R5); no step writes them (log 1). -/
  cfg : Config
  /-- The EdgeTimer's timestamp of the previous edge (R21). -/
  last : U32
  /-- The IntervalChannel, head first (R22). -/
  chan : List U32
  /-- The SampleRing's slots (R23). -/
  ring : List U32
  /-- The slot the next PUSH overwrites (R23). -/
  cursor : Nat
  /-- CTRL.EN (R34). -/
  en : Bool
  /-- STATUS.BADCFG (R35). -/
  badcfg : Bool
  /-- STATUS.CFGWE (R35). -/
  cfgwe : Bool
  /-- STATUS.OVERRUN (R35). -/
  overrun : Bool
  /-- T1 (R36). -/
  t1 : U32
  /-- T2 (R36). -/
  t2 : U32
  /-- TRIG (R36). -/
  trig : U32
  /-- RDA, the first-found value of the latest reading (R37). -/
  rda : U64
  /-- RDB, the second-found value of the latest reading (R37). -/
  rdb : U64
  /-- RDCNT (R38). -/
  rdcnt : U32
  /-- TRGCNT (R38). -/
  trgcnt : U32
  /-- LASTWC[15:0] (R38). -/
  lastwc : U16
  /-- The decoder (R24 to R27). -/
  dec : Decoder
  /-- The extractor (R28). -/
  col : Collected
  /-- The window start of the latest fired trigger (R29). -/
  anchor : Nat
  /-- The window index (R29). -/
  k : Nat
  /-- The output history (R44). -/
  outs : List (U64 × U64)
  /-- The refusal mark (R45). -/
  refused : Bool
  /-- The results of the register reads, in order: offset and value (30_encoding.md R74, log 9). -/
  reads : List (U8 × U32)
  /-- The label history (30_encoding.md R70 (2), log 8). -/
  labels : List Instr
  /-- The stimulus words not yet run (30_encoding.md R70 (1), log 10). -/
  stim : List U64
  deriving DecidableEq, Repr

namespace State

/-- The state a run with the parameters `c` starts in (R231): what RESET produces, outs empty, refused 0. The
decode-transient values are DESIGN CHOICE (log 4): no rule reads one before DECINIT writes it (R29). -/
def init (c : Config) : State where
  cfg := c
  last := c.last0
  chan := []
  ring := c.initialRing
  cursor := 0
  en := false
  badcfg := false
  cfgwe := false
  overrun := false
  t1 := 0
  t2 := 0
  trig := 0
  rda := 0
  rdb := 0
  rdcnt := 0
  trgcnt := 0
  lastwc := 0
  dec := { acc := 0, bitpos := 63, prev := .none, words := List.replicate c.w 0, wc := 0, closed := false,
           bitposBefore := 63 }
  col := { n := 0, a := 0, b := 0 }
  anchor := 0
  k := 0
  outs := []
  refused := false
  reads := []
  labels := []
  stim := []

/-- The machine right after reset under the configuration of logs 1 and 2. -/
def reset : State := init Config.sourceExamples

end State

end Sys2Proof.Machine
end

