-- ==== Sys2Proof/Machine/Ops.lean ====
section
/-! DEFINITION. The operations over ITSR's storage spaces (20_memory.md R50) that the meanings share, the model's two
records, and the refusal. ITSR has no trap (60_exceptions.md R210) and no return operation (R219): there is no entry
into a handler to write here; the one shared way a step is turned away is `refuse` (R215). -/

namespace Sys2Proof.Machine

/-- The form of the storage spaces: N ring slots and a cursor below N (10_state.md R23), at most C channel entries
(R22), W word slots of which at most W are filled (R27). -/
abbrev Memory.wf (s : State) : Prop :=
  s.ring.length = s.cfg.n ∧ s.cursor < s.cfg.n ∧ s.chan.length ≤ s.cfg.c ∧
    s.dec.words.length = s.cfg.w ∧ s.dec.wc ≤ s.cfg.w

/-! ### The ring (20_memory.md R51: the index is reduced modulo N before use) -/

/-- RingRead(i): slot i modulo N (R10, R51). A slot that a ring of N samples does not have cannot be named; the
default 0 is never read there (log 15). -/
def ringRead (i : Nat) (s : State) : U32 := s.ring.getD (i % s.cfg.n) 0

/-- RingWrite(i, v): the ring with slot i modulo N replaced (R10, R51). -/
def ringWrite (i : Nat) (v : U32) (s : State) : List U32 := s.ring.set (i % s.cfg.n) v

/-! ### The channel (41_edge_channel.md R101, R102) -/

/-- Whether CHSEND accepts: |chan| < C (R101). -/
def chanAccepts (s : State) : Bool := decide (s.chan.length < s.cfg.c)

/-- ChanPush(v): append at the tail, or drop when full (R101). -/
def chanPush (v : U32) (s : State) : List U32 := if chanAccepts s then s.chan ++ [v] else s.chan

/-! ### The word buffer -/

/-- The words emitted so far, oldest first: words[0..wc-1] (10_state.md R27). -/
def emittedWords (d : Decoder) : List U64 := d.words.take d.wc

/-! ### Records -/

/-- Record one label (30_encoding.md R70 (2)). -/
def record (l : Instr) (s : State) : State := { s with labels := s.labels ++ [l] }

/-- Record the result of one register read (30_encoding.md R74). -/
def recordRead (off : U8) (v : U32) (s : State) : State := { s with reads := s.reads ++ [(off, v)] }

/-- The label history as operation words (30_encoding.md R70, R76, R77). -/
def labelWords (s : State) : List U64 := s.labels.flatMap encode

/-! ### Refusal (60_exceptions.md R215) -/

/-- raise Refuse(reason) (00_scope.md R10). -/
def refuse (r : Refusal) : Host.Outcome State Fault Refusal := .refused r

/-- The state a refused run ends in: `refused` set and never cleared, all else kept (10_state.md R45, log 11). -/
def markRefused (s : State) : State := { s with refused := true }

end Sys2Proof.Machine
end

