-- ==== Sys2Proof/Machine/Operands.lean ====
section
/-! DEFINITION. The operand forms: absolute register offsets (45_sequencer_host.md R198, 10_state.md R30), the index
forms of the ring (R198) with the anchor of 42_ring_trigger_window.md R122, and the fields a label carries
(30_encoding.md R72, R76). -/

namespace Sys2Proof.Machine

/-- Whether an offset has bits [1:0] = 0 (20_memory.md R53). -/
def aligned (off : U8) : Bool := decide (off.extractLsb' 0 2 = 0#2)

namespace HostReg

/-- All registers, in the order of the map (10_state.md R30). -/
def all : List HostReg :=
  [.paramN, .paramQ, .paramM, .ctrl, .status, .t1, .t2, .trig, .rdaLo, .rdaHi, .rdbLo, .rdbHi, .rdcnt, .trgcnt,
   .lastwc]

/-- A register's byte offset (10_state.md R30). -/
def offset : HostReg → U8
  | .paramN => 0x00
  | .paramQ => 0x04
  | .paramM => 0x08
  | .ctrl => 0x0C
  | .status => 0x10
  | .t1 => 0x14
  | .t2 => 0x18
  | .trig => 0x1C
  | .rdaLo => 0x20
  | .rdaHi => 0x24
  | .rdbLo => 0x28
  | .rdbHi => 0x2C
  | .rdcnt => 0x30
  | .trgcnt => 0x34
  | .lastwc => 0x38

/-- The register at an offset; none at the reserved offsets 0x3C to 0xFC (10_state.md R39). -/
def ofOffset (off : U8) : Option HostReg := all.find? (fun r => decide (r.offset = off))

end HostReg

/-- The cursor after one advance (00_scope.md R9, R15). -/
def advance (cursor : Nat) (c : Config) : Nat := (cursor + 1) % c.n

/-- The anchor a fired trigger carries, from the cursor after the PUSH (42_ring_trigger_window.md R122). -/
def anchorFor (cursor : Nat) (c : Config) : Nat :=
  match c.anchorMode with
  | .afterAdvance => cursor
  | .atSample => (cursor + c.n - 1) % c.n

/-- A slot, index or count as the 16-bit field of a label (30_encoding.md R72). -/
def field16 (i : Nat) : U16 := BitVec.ofNat 16 i

end Sys2Proof.Machine
end

