-- ==== Sys2Proof/Machine/Flags.lean ====
section
/-! DEFINITION. Every flag and comparison of ITSR (10_state.md R35, R42; 00_scope.md R15): the trigger comparison, the
threshold order, the STATUS word and its write-1-to-clear, and the conditions of 60_exceptions.md R212. Comparisons
are unsigned (R9). -/

namespace Sys2Proof.Machine

/-- iv > TRIG, unsigned and strict (42_ring_trigger_window.md R123). -/
def fires (iv trig : U32) : Bool := decide (trig < iv)

/-- T1 < T2, unsigned (45_sequencer_host.md R191). -/
def thresholdsOrdered (s : State) : Bool := decide (s.t1 < s.t2)

/-- STATUS: [31:3] 0, [2] OVERRUN, [1] CFGWE, [0] BADCFG (10_state.md R30, R35). -/
def statusWord (s : State) : U32 :=
  0#29 ++ BitVec.ofBool s.overrun ++ BitVec.ofBool s.cfgwe ++ BitVec.ofBool s.badcfg

/-- CTRL: [31:1] 0, [0] EN (10_state.md R34). -/
def ctrlWord (s : State) : U32 := 0#31 ++ BitVec.ofBool s.en

/-- A sticky flag after a host write of `bit` to it: 1 clears, 0 keeps (45_sequencer_host.md R193). -/
def writeOneToClear (flag bit : Bool) : Bool := flag && !bit

/-- PARAM_M bit 0 (10_state.md R33). -/
def anchorModeBit : AnchorMode → Bool
  | .afterAdvance => false
  | .atSample => true

/-- PARAM_M bit 1 (10_state.md R33). -/
def emitModeBit : EmitMode → Bool
  | .level => false
  | .onDecrement => true

/-- The code of a condition (60_exceptions.md R212). No code is stored in the hardware. -/
def Condition.code : Condition → Nat
  | .drop => 1
  | .underflow => 2
  | .trunc => 3
  | .overrun => 4
  | .badcfg => 6
  | .cfgwe => 7

end Sys2Proof.Machine
end

