-- ==== Sys2Proof/Machine/HostPort.lean ====
section
/-! DEFINITION. Host register access (45_sequencer_host.md R190 to R196): REGWR, REGRD. -/

namespace Sys2Proof.Machine

/-- CTRL_WRITE (R191). -/
def ctrlWrite (data : U32) (s : State) : State :=
  if data.getLsbD 0 = false then { s with en := false }
  else if s.en then s
  else if thresholdsOrdered s then { s with en := true }
  else { s with badcfg := true }

/-- STATUS_WRITE (R193). -/
def statusWrite (data : U32) (s : State) : State :=
  { s with
    badcfg := writeOneToClear s.badcfg (data.getLsbD 0)
    cfgwe := writeOneToClear s.cfgwe (data.getLsbD 1)
    overrun := writeOneToClear s.overrun (data.getLsbD 2) }

/-- THRESH_WRITE (R192): the lock while EN = 1, else the write `set`. -/
def lockedWrite (set : State) (s : State) : State := if s.en then { s with cfgwe := true } else set

/-- The effect of a host write on the register at an offset; read-only and reserved offsets ignore it (R190). -/
def regWrite (r : Option HostReg) (data : U32) (s : State) : State :=
  match r with
  | some .ctrl => ctrlWrite data s
  | some .status => statusWrite data s
  | some .t1 => lockedWrite { s with t1 := data } s
  | some .t2 => lockedWrite { s with t2 := data } s
  | some .trig => lockedWrite { s with trig := data } s
  | some .paramN | some .paramQ | some .paramM | some .rdaLo | some .rdaHi | some .rdbLo | some .rdbHi
  | some .rdcnt | some .trgcnt | some .lastwc | none => s

/-- The value of a register (R194; 10_state.md R31 to R38). -/
def HostReg.value (r : HostReg) (s : State) : U32 :=
  match r with
  | .paramN => BitVec.ofNat 32 s.cfg.n
  | .paramQ => BitVec.ofNat 16 s.cfg.w ++ BitVec.ofNat 16 s.cfg.c
  | .paramM => 0#30 ++ BitVec.ofBool (emitModeBit s.cfg.emitMode) ++ BitVec.ofBool (anchorModeBit s.cfg.anchorMode)
  | .ctrl => ctrlWord s
  | .status => statusWord s
  | .t1 => s.t1
  | .t2 => s.t2
  | .trig => s.trig
  | .rdaLo => s.rda.extractLsb' 0 32
  | .rdaHi => s.rda.extractLsb' 32 32
  | .rdbLo => s.rdb.extractLsb' 0 32
  | .rdbHi => s.rdb.extractLsb' 32 32
  | .rdcnt => s.rdcnt
  | .trgcnt => s.trgcnt
  | .lastwc => 0#16 ++ s.lastwc

/-- The value a host read returns; a reserved offset reads 0 (R194, 10_state.md R39). -/
def regRead (r : Option HostReg) (s : State) : U32 :=
  match r with
  | some r => r.value s
  | none => 0

/-- REGWR (R190). -/
def execRegwr (off : U8) (data : U32) (s : State) : Host.Outcome State Fault Refusal :=
  if aligned off then .next (regWrite (HostReg.ofOffset off) data s) else refuse .misaligned

/-- REGRD (R194): the value read is the step's result and nothing else changes (20_memory.md R55). -/
def execRegrd (off : U8) (s : State) : Host.Outcome State Fault Refusal :=
  if aligned off then .next (recordRead off (regRead (HostReg.ofOffset off) s) s) else refuse .misaligned

end Sys2Proof.Machine
end

