-- ==== Sys2Proof/Machine/ResetOp.lean ====
section
/-! DEFINITION. RESET (70_reset_and_hazards.md R230). -/

namespace Sys2Proof.Machine

/-- Every architectural register to its reset value (R230, R232); outs and refused are not changed, and neither is
the decode-transient state, which needs no reset value. -/
def resetBlock (s : State) : State :=
  { s with
    en := false
    badcfg := false
    cfgwe := false
    overrun := false
    t1 := 0
    t2 := 0
    trig := 0
    last := s.cfg.last0
    chan := []
    ring := s.cfg.initialRing
    cursor := 0
    rda := 0
    rdb := 0
    rdcnt := 0
    trgcnt := 0
    lastwc := 0 }

/-- RESET (R230). -/
def execReset (s : State) : Host.Outcome State Fault Refusal := .next (resetBlock s)

end Sys2Proof.Machine
end

