-- ==== Sys2Proof/Machine/Edge.lean ====
section
/-! DEFINITION. EdgeTimer and IntervalChannel (41_edge_channel.md): EDGE, CHSEND, CHRECV. -/

namespace Sys2Proof.Machine

/-- CHSEND (R101): enqueue the interval or drop it; the label carries ACC. -/
def chsend (iv : U32) (s : State) : State :=
  { s with chan := chanPush iv s, labels := s.labels ++ [.chsend (chanAccepts s) iv] }

/-- The interval CHRECV returns: the head of the channel (R102). -/
def chanHead (s : State) : U32 := s.chan.headD 0

/-- CHRECV on a channel that is not empty (R102): dequeue the oldest interval. -/
def chrecv (s : State) : State :=
  { s with chan := s.chan.tail, labels := s.labels ++ [.chrecv (chanHead s)] }

/-- The EdgeTimer's subtraction: (now - last) mod 2^32 (R100). -/
def interval (now : U32) (s : State) : U32 := now - s.last

/-- What EDGE does while EN = 1 (R100): compute the interval, update `last` unconditionally, then send. -/
def captureEdge (now : U32) (s : State) : State := chsend (interval now s) { s with last := now }

/-- EDGE (R100). With EN = 0 the edge is lost and nothing changes. -/
def execEdge (now : U32) (s : State) : Host.Outcome State Fault Refusal :=
  .next (if s.en then captureEdge now s else s)

/-- CHSEND as an operation of its own (R101); ACC is its result, not an operand (log 7). -/
def execChsend (iv : U32) (s : State) : Host.Outcome State Fault Refusal := .next (chsend iv s)

/-- CHRECV as an operation of its own (R102); the interval is its result. On an empty channel the consumer has no
step (log 12). -/
def execChrecv (s : State) : Host.Outcome State Fault Refusal :=
  if s.chan.isEmpty then .fault .consumerHeld else .next (chrecv s)

end Sys2Proof.Machine
end

