-- ==== Sys2Proof/Machine/Ring.lean ====
section
/-! DEFINITION. SampleRing, TriggerDetector and decode-window reader (42_ring_trigger_window.md): PUSH, TRIGCHK,
WINRD. -/

namespace Sys2Proof.Machine

/-- PUSH (R120): overwrite the slot at the cursor and advance the cursor. -/
def push (iv : U32) (s : State) : State :=
  { s with
    ring := ringWrite s.cursor iv s
    cursor := advance s.cursor s.cfg
    labels := s.labels ++ [.push (field16 s.cursor) iv] }

/-- TRIGCHK (R124): when the interval exceeds TRIG, set the anchor and count the trigger. -/
def trigchk (iv : U32) (s : State) : State :=
  { s with
    anchor := if fires iv s.trig then anchorFor s.cursor s.cfg else s.anchor
    trgcnt := if fires iv s.trig then s.trgcnt + 1 else s.trgcnt
    labels := s.labels ++
      [.trigchk (fires iv s.trig) (if fires iv s.trig then field16 (anchorFor s.cursor s.cfg) else 0) iv] }

/-- The sample WINRD reads at index k of the window at the anchor: ring[(anchor + k) mod N] (R125). -/
def windowSample (k : Nat) (s : State) : U32 := ringRead (s.anchor + k) s

/-- WINRD (R125): k becomes the window index (10_state.md R29, log 17), the sample is the result. -/
def winrd (k : Nat) (s : State) : State :=
  { s with k := k % s.cfg.n, labels := s.labels ++ [.winrd (field16 k) (windowSample k s)] }

/-- PUSH as an operation of its own; the slot is its result (log 7). -/
def execPush (iv : U32) (s : State) : Host.Outcome State Fault Refusal := .next (push iv s)

/-- TRIGCHK as an operation of its own; fired and anchor are its results (log 7). -/
def execTrigchk (iv : U32) (s : State) : Host.Outcome State Fault Refusal := .next (trigchk iv s)

/-- WINRD as an operation of its own; the sample is its result (log 7). -/
def execWinrd (k : U16) (s : State) : Host.Outcome State Fault Refusal := .next (winrd k.toNat s)

end Sys2Proof.Machine
end

