-- ==== Sys2Proof/Machine/PulseDecoder.lean ====
section
/-! DEFINITION. PulseDecoder (43_decoder.md): CLASSIFY, DECINIT, PAIRSTEP, EMITCHK, and the composite DECODE. -/

namespace Sys2Proof.Machine

/-- The ternary comparator (R140): priority HIGH, MID, LOW; unsigned and strict. -/
def classify (t1 t2 x : U32) : Sym :=
  if t2 < x then .high else if t1 < x then .mid else .low

/-- The pairing state a symbol is stored as: HIGH as NONE (00_scope.md R12). -/
def pendingOf : Sym → Prev
  | .low => .low
  | .mid => .mid
  | .high => .none

/-- The accumulator with bit `p` set (00_scope.md R15). -/
def setBit (acc : U64) (p : BitVec 7) : U64 := acc ||| (1#64 <<< p.toNat)

/-- A pair (prev, s) of LOW or MID symbols closes a bit position (R143). At bitpos = -1 it sets ov and changes
neither acc nor bitpos; otherwise (MID, LOW) sets bit `bitpos`, and bitpos decrements. -/
def closePair (isOne : Bool) (d : Decoder) : PairResult :=
  if d.bitpos = -1 then
    { acc := d.acc, bitpos := d.bitpos, prev := .none, closed := true, bitset := false, ov := true }
  else
    { acc := if isOne then setBit d.acc d.bitpos else d.acc, bitpos := d.bitpos - 1, prev := .none,
      closed := true, bitset := isOne, ov := false }

/-- One step of the edge-pairing state machine (R143). -/
def pairResult (sym : Sym) (d : Decoder) : PairResult :=
  match sym, d.prev with
  | .high, _ => { acc := 0, bitpos := 63, prev := .none, closed := false, bitset := false, ov := false }
  | .low, .mid => closePair true d
  | .low, .low => closePair false d
  | .mid, .low => closePair false d
  | .mid, .mid => closePair false d
  | .low, .none => { acc := d.acc, bitpos := d.bitpos, prev := .low, closed := false, bitset := false, ov := false }
  | .mid, .none => { acc := d.acc, bitpos := d.bitpos, prev := .mid, closed := false, bitset := false, ov := false }

/-- The decoder after a PAIRSTEP, with the two values EMITCHK takes from it (R144). -/
def Decoder.afterPair (sym : Sym) (d : Decoder) : Decoder :=
  { d with
    acc := (pairResult sym d).acc
    bitpos := (pairResult sym d).bitpos
    prev := (pairResult sym d).prev
    closed := (pairResult sym d).closed
    bitposBefore := d.bitpos }

/-- The condition both emission modes share: terminal bit position, acc not 0, a slot left (R144). -/
def emitCond (c : Config) (d : Decoder) : Bool :=
  decide (d.bitpos = 0) && decide (d.acc ≠ 0) && decide (d.wc < c.w)

/-- Whether EMITCHK emits, under the emission mode (R144). -/
def emits (c : Config) (d : Decoder) : Bool :=
  match c.emitMode with
  | .level => emitCond c d
  | .onDecrement => emitCond c d && d.closed && decide (d.bitposBefore = 1)

/-- The decoder after an emission (R144). The assignment of 0 to bitpos is kept as the source writes it; it changes
nothing, and acc is not cleared (R147). -/
def Decoder.emit (d : Decoder) : Decoder :=
  { d with words := d.words.set d.wc d.acc, wc := d.wc + 1, bitpos := 0 }

/-- The decoder after an EMITCHK (R144). -/
def Decoder.afterEmitchk (c : Config) (d : Decoder) : Decoder := if emits c d then d.emit else d

/-- The decoder's state fresh for one trigger (R141). -/
def Decoder.fresh (d : Decoder) : Decoder := { d with acc := 0, bitpos := 63, prev := .none, wc := 0 }

/-- CLASSIFY (R140): no state changes; the symbol is the result. -/
def classifyOp (x : U32) (s : State) : State :=
  { s with labels := s.labels ++ [.classify (classify s.t1 s.t2 x) x] }

/-- DECINIT (R141): the anchor is carried for the label only. -/
def decinit (anchor : U16) (s : State) : State :=
  { s with dec := s.dec.fresh, labels := s.labels ++ [.decinit anchor] }

/-- PAIRSTEP (R143): the state machine's step, and the sticky OVERRUN. -/
def pairstep (sym : Sym) (s : State) : State :=
  { s with
    dec := s.dec.afterPair sym
    overrun := s.overrun || (pairResult sym s.dec).ov
    labels := s.labels ++
      [.pairstep sym s.dec.prev s.dec.bitpos (pairResult sym s.dec).closed (pairResult sym s.dec).bitset
        (pairResult sym s.dec).ov] }

/-- EMITCHK (R144): emit acc to the word buffer when the bit position is terminal. -/
def emitchk (s : State) : State :=
  { s with
    dec := s.dec.afterEmitchk s.cfg
    labels := s.labels ++
      [.emitchk (emits s.cfg s.dec) (if emits s.cfg s.dec then field16 s.dec.wc else 0)
        (if emits s.cfg s.dec then s.dec.acc else 0)] }

/-- The four operations DECODE runs on window element k (R145). -/
def decodeSample (s : State) (k : Nat) : State :=
  emitchk (pairstep (classify s.t1 s.t2 (windowSample k s)) (classifyOp (windowSample k s) (winrd k s)))

/-- DECODE (R145): DECINIT, then WINRD, CLASSIFY, PAIRSTEP and EMITCHK for k = 0 .. N-1 over the window at the
anchor. -/
def decodeWindow (s : State) : State :=
  (List.range s.cfg.n).foldl decodeSample (decinit (field16 s.anchor) s)

/-- CLASSIFY as an operation of its own; the symbol is its result (log 7). -/
def execClassify (x : U32) (s : State) : Host.Outcome State Fault Refusal := .next (classifyOp x s)

/-- DECINIT as an operation of its own. -/
def execDecinit (anchor : U16) (s : State) : Host.Outcome State Fault Refusal := .next (decinit anchor s)

/-- PAIRSTEP as an operation of its own; PREV and BP are read from the state, PC, BS and OV are its results (log 7). -/
def execPairstep (sym : Sym) (s : State) : Host.Outcome State Fault Refusal := .next (pairstep sym s)

/-- EMITCHK as an operation of its own; every field of its label is a result (log 7). -/
def execEmitchk (s : State) : Host.Outcome State Fault Refusal := .next (emitchk s)

end Sys2Proof.Machine
end

