-- ==== Sys2Proof/Machine/Extractor.lean ====
section
/-! DEFINITION. WordExtractor and output port (44_extractor_output.md): EXTRACT, OUTPUT. -/

namespace Sys2Proof.Machine

/-- One word of the backward scan (R170). -/
def collect (c : Collected) (w : U64) : Collected :=
  if c.n = 0 then { c with a := w, n := 1 }
  else if c.n = 1 ∧ w ≠ c.a then { c with b := w, n := 2 }
  else c

/-- The scan of EXTRACT over the emitted words, oldest first: from the most recent backward (R170). -/
def collectAll (words : List U64) : Collected := words.reverse.foldl collect { n := 0, a := 0, b := 0 }

/-- EXTRACT (R170). -/
def extract (s : State) : State :=
  { s with
    col := collectAll (emittedWords s.dec)
    labels := s.labels ++
      [.extract (BitVec.ofNat 2 (collectAll (emittedWords s.dec)).n) (field16 s.dec.wc)] }

/-- OUTPUT (R175): append the reading to the output history, write the mirrors, count it. -/
def output (a b : U64) (s : State) : State :=
  { s with
    outs := s.outs ++ [(a, b)]
    rda := a
    rdb := b
    rdcnt := s.rdcnt + 1
    labels := s.labels ++ [.output a b] }

/-- EXTRACT as an operation of its own; n and wc are results of the state (log 7). -/
def execExtract (s : State) : Host.Outcome State Fault Refusal := .next (extract s)

/-- OUTPUT as an operation of its own: a and b are the payload words. -/
def execOutput (a b : U64) (s : State) : Host.Outcome State Fault Refusal := .next (output a b s)

end Sys2Proof.Machine
end

