-- ==== Sys2Proof/Machine/Sequencer.lean ====
section
/-! DEFINITION. The consumer sequencer (45_sequencer_host.md R185 to R187): CSTEP. -/

namespace Sys2Proof.Machine

/-- Whether the consumer has a step: EN = 1, the channel is not empty, and nothing was refused (R185). -/
def consumerEnabled (s : State) : Bool := s.en && !s.chan.isEmpty && !s.refused

/-- LASTWC after a decode (R186): wc as the 16-bit register. -/
def latchWordCount (s : State) : State := { s with lastwc := field16 s.dec.wc }

/-- OUTPUT when EXTRACT collected two values (R186). -/
def outputReading (s : State) : State := if s.col.n = 2 then output s.col.a s.col.b s else s

/-- The inline work of a fired trigger (R186): decode, LASTWC, extraction, and output of a reading. -/
def runTrigger (s : State) : State := outputReading (extract (latchWordCount (decodeWindow s)))

/-- Receive one interval, push it and check the trigger (R186). -/
def receivePush (s : State) : State := trigchk (chanHead s) (push (chanHead s) (chrecv s))

/-- One step of an enabled consumer (R186). -/
def consumerStep (s : State) : State :=
  if fires (chanHead s) s.trig then runTrigger (receivePush s) else receivePush s

/-- CSTEP (R186). A held consumer has no transition (R185). -/
def execCstep (s : State) : Host.Outcome State Fault Refusal :=
  if consumerEnabled s then .next (consumerStep s) else .fault .consumerHeld

end Sys2Proof.Machine
end

