-- ==== Sys2Proof/Machine/Dispatch.lean ====
section
/-! DEFINITION. One arm per operation (30_encoding.md R84). A label's result fields are not operands (log 7). -/

namespace Sys2Proof.Machine

def exec (i : Instr) (s : State) : Host.Outcome State Fault Refusal :=
  match i with
  | .edge now => Sys2Proof.Machine.execEdge now s
  | .cstep => Sys2Proof.Machine.execCstep s
  | .regwr off data => Sys2Proof.Machine.execRegwr off data s
  | .regrd off => Sys2Proof.Machine.execRegrd off s
  | .reset => Sys2Proof.Machine.execReset s
  | .chsend _ iv => Sys2Proof.Machine.execChsend iv s
  | .chrecv _ => Sys2Proof.Machine.execChrecv s
  | .push _ iv => Sys2Proof.Machine.execPush iv s
  | .trigchk _ _ iv => Sys2Proof.Machine.execTrigchk iv s
  | .winrd k _ => Sys2Proof.Machine.execWinrd k s
  | .classify _ x => Sys2Proof.Machine.execClassify x s
  | .decinit anchor => Sys2Proof.Machine.execDecinit anchor s
  | .pairstep sym _ _ _ _ _ => Sys2Proof.Machine.execPairstep sym s
  | .emitchk _ _ _ => Sys2Proof.Machine.execEmitchk s
  | .extract _ _ => Sys2Proof.Machine.execExtract s
  | .output a b => Sys2Proof.Machine.execOutput a b s

end Sys2Proof.Machine
end

