-- ==== Sys2Proof/Machine/Fetch.lean ====
section
/-! DEFINITION. Taking the next stimulus word (30_encoding.md R70, R79; 45_sequencer_host.md R197). ITSR fetches
nothing (10_state.md R41): the words come from outside and run strictly in order (log 10). -/

namespace Sys2Proof.Machine

/-- The reason a list of words that spells no operation is refused with: a label word without its payload is a label
word all the same (log 13). -/
def refusalOf : DecodeError → Refusal
  | .missingPayload => .notStimulus
  | .noWord | .reservedOp | .mustBeZero | .reservedSym | .reservedPrev | .reservedCount => .encoding

/-- The operation at the front of the stimulus program, with the state that has its words taken off, or why there is
none: a refused run takes no step and an ill-configured one has none (60_exceptions.md R215), the program is
completed (R242 (a)), or the word is refused, ENCODING before NOT_STIMULUS (R217). -/
def fetch (s : State) : Host.Outcome (Instr × State) Fault Refusal :=
  if s.refused then .fault .runRefused
  else if s.cfg.wf = false then .refused .badParam
  else if s.stim.isEmpty then .fault .completed
  else
    match decode s.stim with
    | .error e => .refused (refusalOf e)
    | .ok (i, rest) => if i.isStimulus then .next (i, { s with stim := rest }) else .refused .notStimulus

/-- The state with the operation of the table word put at the front of the stimulus program (log 14). -/
def loadTableWord (nbits w : Nat) (s : State) : State :=
  { s with stim := (tableWords nbits w).take (wordCount (BitVec.ofNat 64 (w % 2 ^ nbits))) ++ s.stim }

end Sys2Proof.Machine
end

