-- ==== Sys2Proof/Machine/Step.lean ====
section
/-! DEFINITION. One step: the next stimulus word's operation, run on the state with the word taken off
(45_sequencer_host.md R197). -/

namespace Sys2Proof.Machine

/-- One atomic step of the agent the next stimulus word names (20_memory.md R58). -/
def step (s : State) : Host.Outcome State Fault Refusal :=
  match fetch s with
  | .next (i, t) => exec i t
  | .fault f => .fault f
  | .refused r => .refused r

/-- The state whose very next step runs the operation of the table word (log 14). -/
def State.withFetchWord (s : State) (nbits w : Nat) : State := loadTableWord nbits w s

end Sys2Proof.Machine
end

