-- ==== Sys2Proof/Machine/Assembler.lean ====
section
/-! DEFINITION. The assembler of stimulus programs over abstract syntax (30_encoding.md R82, R83): statements,
pseudo-instructions with the running time, the words they stand for, and the reader of one line of text (log 19). -/

namespace Sys2Proof.Machine

/-- A register operand: a name, or a raw offset (R82). -/
inductive RegOperand where
  | name (r : HostReg)
  | raw (off : U8)
  deriving DecidableEq, Repr

/-- One statement that is not `rep` (R82, R83). -/
inductive Stmt where
  | edge (now : U32)
  | cstep
  | wr (r : RegOperand) (v : U32)
  | rd (r : RegOperand)
  | reset
  | iv (x : U32)
  | ivq (x : U32)
  | cfg (t1 t2 trig : U32)
  | enable
  | disable
  | clr (m : U32)
  deriving DecidableEq, Repr

/-- A program: statements in order, and `rep k` blocks (R83). -/
inductive Prog where
  | done
  | stmt (st : Stmt) (rest : Prog)
  | rep (k : Nat) (body rest : Prog)
  deriving DecidableEq, Repr

/-- The offset a register operand stands for (R82). -/
def RegOperand.offset : RegOperand → U8
  | .name r => r.offset
  | .raw off => off

/-- The stimulus operations of a statement at running time `t` (R82, R83). -/
def expandStmt (t : U32) : Stmt → List Instr
  | .edge now => [.edge now]
  | .cstep => [.cstep]
  | .wr r v => [.regwr r.offset v]
  | .rd r => [.regrd r.offset]
  | .reset => [.reset]
  | .iv x => [.edge (t + x), .cstep]
  | .ivq x => [.edge (t + x)]
  | .cfg t1 t2 trig =>
    [.regwr HostReg.t1.offset t1, .regwr HostReg.t2.offset t2, .regwr HostReg.trig.offset trig]
  | .enable => [.regwr HostReg.ctrl.offset 1]
  | .disable => [.regwr HostReg.ctrl.offset 0]
  | .clr m => [.regwr HostReg.status.offset m]

/-- The running time after a statement: each edge emitted sets it to that edge's now (R83). -/
def timeAfter (t : U32) : Stmt → U32
  | .edge now => now
  | .iv x => t + x
  | .ivq x => t + x
  | .cstep => t
  | .wr _ _ => t
  | .rd _ => t
  | .reset => t
  | .cfg _ _ _ => t
  | .enable => t
  | .disable => t
  | .clr _ => t

/-- A block written k times, the running time carried through (R83). -/
def expandRep (body : U32 → List Instr × U32) : Nat → U32 → List Instr × U32
  | 0, t => ([], t)
  | k + 1, t => ((body t).1 ++ (expandRep body k (body t).2).1, (expandRep body k (body t).2).2)

/-- The stimulus operations of a program from running time `t`, and the running time after it (R83). -/
def expandProg : Prog → U32 → List Instr × U32
  | .done, t => ([], t)
  | .stmt st rest, t => (expandStmt t st ++ (expandProg rest (timeAfter t st)).1, (expandProg rest (timeAfter t st)).2)
  | .rep k body rest, t =>
    ((expandRep (expandProg body) k t).1 ++ (expandProg rest (expandRep (expandProg body) k t).2).1,
      (expandProg rest (expandRep (expandProg body) k t).2).2)

/-- The words of a program under a configuration: the running time starts at LAST0 (R83). -/
def assemble (p : Prog) (c : Config) : List U64 := (expandProg p c.last0).1.flatMap encode

/-! ### Text (R82): one statement per line, as a list of characters -/

/-- The names of the register map (10_state.md R30). -/
def HostReg.name : HostReg → List Char
  | .paramN => ['P', 'A', 'R', 'A', 'M', '_', 'N']
  | .paramQ => ['P', 'A', 'R', 'A', 'M', '_', 'Q']
  | .paramM => ['P', 'A', 'R', 'A', 'M', '_', 'M']
  | .ctrl => ['C', 'T', 'R', 'L']
  | .status => ['S', 'T', 'A', 'T', 'U', 'S']
  | .t1 => ['T', '1']
  | .t2 => ['T', '2']
  | .trig => ['T', 'R', 'I', 'G']
  | .rdaLo => ['R', 'D', 'A', '_', 'L', 'O']
  | .rdaHi => ['R', 'D', 'A', '_', 'H', 'I']
  | .rdbLo => ['R', 'D', 'B', '_', 'L', 'O']
  | .rdbHi => ['R', 'D', 'B', '_', 'H', 'I']
  | .rdcnt => ['R', 'D', 'C', 'N', 'T']
  | .trgcnt => ['T', 'R', 'G', 'C', 'N', 'T']
  | .lastwc => ['L', 'A', 'S', 'T', 'W', 'C']

/-- The line without its comment: `;` starts one (R82). -/
def stripComment (line : List Char) : List Char := line.takeWhile (fun c => decide (c ≠ ';'))

/-- Add a character in front of the first token, or start one. -/
def consToken (c : Char) : List (List Char) → List (List Char)
  | [] => [[c]]
  | t :: ts => (c :: t) :: ts

/-- The tokens of a line: blanks and commas separate, and an empty first token stands for a separator just read. -/
def splitTokens : List Char → List (List Char)
  | [] => [[]]
  | c :: cs => if c = ' ' ∨ c = ',' then [] :: splitTokens cs else consToken c (splitTokens cs)

/-- The tokens that are not empty. -/
def tokens (line : List Char) : List (List Char) := (splitTokens (stripComment line)).filter (fun t => !t.isEmpty)

/-- A digit's value in a base up to 16. -/
def digit (base : Nat) (c : Char) : Option Nat :=
  if 48 ≤ c.toNat ∧ c.toNat ≤ 57 then (if c.toNat - 48 < base then some (c.toNat - 48) else none)
  else if 65 ≤ c.toNat ∧ c.toNat ≤ 70 then (if c.toNat - 55 < base then some (c.toNat - 55) else none)
  else if 97 ≤ c.toNat ∧ c.toNat ≤ 102 then (if c.toNat - 87 < base then some (c.toNat - 87) else none)
  else none

/-- Digits from the most significant on, after a value read so far. -/
def digits (base : Nat) : List Char → Nat → Option Nat
  | [], v => some v
  | c :: cs, v =>
    match digit base c with
    | some d => digits base cs (base * v + d)
    | none => none

/-- A number: decimal, or hexadecimal with a 0x prefix (R82). -/
def number : List Char → Option Nat
  | [] => none
  | '0' :: 'x' :: c :: cs => digits 16 (c :: cs) 0
  | c :: cs => digits 10 (c :: cs) 0

/-- A number that is a u32; a larger one is no operand (log 19). -/
def number32 (t : List Char) : Option U32 :=
  match number t with
  | some v => if v < 2 ^ 32 then some (BitVec.ofNat 32 v) else none
  | none => none

/-- A register operand: a name of the map, or @ and a raw offset of 8 bits (R82). -/
def register : List Char → Option RegOperand
  | '@' :: t =>
    match number t with
    | some v => if v < 256 then some (.raw (BitVec.ofNat 8 v)) else none
    | none => none
  | t => (HostReg.all.find? (fun r => decide (r.name = t))).map .name

/-- The statement some tokens spell (R82, R83). -/
def readTokens : List (List Char) → Option Stmt
  | [['e', 'd', 'g', 'e'], n] => (number32 n).map .edge
  | [['c', 's', 't', 'e', 'p']] => some .cstep
  | [['w', 'r'], r, v] =>
    match register r, number32 v with
    | some o, some d => some (.wr o d)
    | some _, none => none
    | none, _ => none
  | [['r', 'd'], r] => (register r).map .rd
  | [['r', 'e', 's', 'e', 't']] => some .reset
  | [['i', 'v'], x] => (number32 x).map .iv
  | [['i', 'v', 'q'], x] => (number32 x).map .ivq
  | [['c', 'f', 'g'], a, b, c] =>
    match number32 a, number32 b, number32 c with
    | some t1, some t2, some trig => some (.cfg t1 t2 trig)
    | _, _, _ => none
  | [['e', 'n', 'a', 'b', 'l', 'e']] => some .enable
  | [['d', 'i', 's', 'a', 'b', 'l', 'e']] => some .disable
  | [['c', 'l', 'r'], m] => (number32 m).map .clr
  | _ => none

/-- The statements of a text, line by line; a line without a token holds none, and a line that spells no statement
makes the whole text none. -/
def readText : List (List Char) → Option (List Stmt)
  | [] => some []
  | l :: ls =>
    match tokens l, readText ls with
    | [], rest => rest
    | ts, some rest => (readTokens ts).map (fun st => st :: rest)
    | _, none => none

/-- The words of a text without `rep` under a configuration. -/
def assembleText (lines : List (List Char)) (c : Config) : Option (List U64) :=
  (readText lines).map (fun sts => assemble (sts.foldr Prog.stmt .done) c)

end Sys2Proof.Machine
end

