-- ==== Sys2Proof/Machine/Conditions.lean ====
section
/-! DEFINITION. When an operation meets a condition of 60_exceptions.md R212. Nothing stores a condition's code; this
names the states in which the rule of the "raised by" column meets the cause of the "cause" column. -/

namespace Sys2Proof.Machine

/-- Whether operation `i`, run at `s`, meets condition `c` (R212). -/
def Condition.metBy (c : Condition) (i : Instr) (s : State) : Bool :=
  match c, i with
  | .drop, .chsend _ _ => !chanAccepts s
  | .underflow, .extract _ _ => decide ((collectAll (emittedWords s.dec)).n < 2)
  | .trunc, .emitchk _ _ _ => decide (s.dec.bitpos = 0) && decide (s.dec.acc ≠ 0) && decide (s.dec.wc = s.cfg.w)
  | .overrun, .pairstep sym _ _ _ _ _ => (pairResult sym s.dec).ov
  | .badcfg, .regwr off data =>
    decide (HostReg.ofOffset off = some .ctrl) && data.getLsbD 0 && !s.en && !thresholdsOrdered s
  | .cfgwe, .regwr off _ =>
    (decide (HostReg.ofOffset off = some .t1) || decide (HostReg.ofOffset off = some .t2) ||
      decide (HostReg.ofOffset off = some .trig)) && s.en
  | _, _ => false

end Sys2Proof.Machine
end

