-- ==== Sys2Proof/Machine/Run.lean ====
section
/-! DEFINITION. Runs: a sequence of operations through exec, and a stimulus program to its end
(70_reset_and_hazards.md R242). -/

namespace Sys2Proof.Machine

/-- How a run ends (R242). -/
inductive RunEnd where
  /-- (a): after the last stimulus word, not refused. -/
  | completed (s : State)
  /-- (b): at a CSTEP whose consumer is held; the state still holds that word and the words after it. -/
  | stuck (s : State)
  /-- (c): at the first word the model refuses; the state carries the mark of R45. -/
  | refused (r : Refusal) (s : State)
  /-- (d): the configuration itself is refused, before any step; the state is the one the run was to start from, with
  the mark of R45, which a BADPARAM refusal sets as every other does (60_exceptions.md R215). -/
  | illConfigured (s : State)
  /-- Not a run: the state it was to start from carries the mark of an earlier refusal (60_exceptions.md R215). -/
  | afterRefusal (s : State)
  /-- Not an end: the steps allowed were too few. -/
  | unfinished (s : State)
  deriving DecidableEq, Repr

/-- The run of a stimulus program, at most `k` steps of it. Every refusal, whatever its reason, ends it in the state
with the mark of R45 set and nothing else changed (60_exceptions.md R215, log 11). -/
def runProgram : Nat → State → RunEnd
  | 0, s => .unfinished s
  | k + 1, s =>
    match step s with
    | .next t => runProgram k t
    | .fault .completed => .completed s
    | .fault .consumerHeld => .stuck s
    | .fault .runRefused => .afterRefusal s
    | .refused .badParam => .illConfigured (markRefused s)
    | .refused r => .refused r (markRefused s)

/-- A sequence of operations through exec, stopping at the first that has no next state. -/
def execAll : List Instr → State → Host.Outcome State Fault Refusal
  | [], s => .next s
  | i :: is, s =>
    match exec i s with
    | .next t => execAll is t
    | .fault f => .fault f
    | .refused r => .refused r

end Sys2Proof.Machine
end

