-- ==== Sys2Proof/Safety.lean ====
section
/-! DEFINITION. What the statements call a good state and a good run: the invariant every step keeps, the hardware
part of a state, and the views of the label history. -/

namespace Sys2Proof.Machine

/-- A word EMITCHK may have emitted: not 0, bit 0 clear (43_decoder.md R146). -/
def EmittedShape (w : U64) : Prop := w ≠ 0 ∧ w.getLsbD 0 = false

/-- A reading OUTPUT may have handed out: two distinct emitted words (44_extractor_output.md R172). -/
def ReadingShape (p : U64 × U64) : Prop := p.1 ≠ p.2 ∧ EmittedShape p.1 ∧ EmittedShape p.2

/-- A label a history may hold: a well-formed label word (30_encoding.md R76, R78). -/
def LabelShape (l : Instr) : Prop := l.wf = true ∧ l.isStimulus = false

/-- The invariant every step keeps. -/
structure State.Inv (s : State) : Prop where
  /-- The configuration is well formed (00_scope.md R7). -/
  config : s.cfg.wf = true
  /-- The storage spaces keep their form (20_memory.md R50). -/
  storage : Memory.wf s
  /-- While the block runs, T1 < T2 (43_decoder.md, opening; 45_sequencer_host.md R191, R192). -/
  thresholds : s.en = true → s.t1 < s.t2
  /-- bitpos is -1 or 0..63 (10_state.md R25). -/
  bitpos : s.dec.bitpos = -1 ∨ s.dec.bitpos.toNat ≤ 63
  /-- The bits of acc at and below an open bit position are still 0 (43_decoder.md R143). -/
  accBelow : s.dec.bitpos ≠ -1 → ∀ i, i ≤ s.dec.bitpos.toNat → s.dec.acc.getLsbD i = false
  /-- The words emitted so far have the shape of R146. -/
  words : ∀ w ∈ emittedWords s.dec, EmittedShape w
  /-- The window start and index are slot numbers (10_state.md R29). -/
  anchor : s.anchor < s.cfg.n
  index : s.k < s.cfg.n
  /-- LASTWC counts at most W words (10_state.md R38). -/
  lastWords : s.lastwc.toNat ≤ s.cfg.w
  /-- At most two values are collected (10_state.md R28). -/
  collected : s.col.n ≤ 2
  /-- Every reading handed out is a pair of distinct emitted words (R146, R172). -/
  readings : ∀ p ∈ s.outs, ReadingShape p
  /-- The history holds well-formed label words only (30_encoding.md R76). -/
  history : ∀ l ∈ s.labels, LabelShape l

/-- The hardware part of a state: everything but the model's own records and the program still to run. -/
def State.hardware (s : State) : State := { s with reads := [], labels := [], stim := [] }

/-- The intervals the label history says CHSEND accepted, in order (41_edge_channel.md R101). -/
def acceptedIntervals (ls : List Instr) : List U32 :=
  ls.filterMap fun
    | .chsend true iv => some iv
    | _ => none

/-- The intervals the label history says CHRECV returned, in order (41_edge_channel.md R102). -/
def receivedIntervals (ls : List Instr) : List U32 :=
  ls.filterMap fun
    | .chrecv iv => some iv
    | _ => none

/-- The ring's samples in chronological order, oldest first: the slots from the cursor on (R120, R126). -/
def chronological (s : State) : List U32 := s.ring.rotate s.cursor

/-- The decode window of a trigger: [WINRD(anchor, k) for k = 0, 1, …, N-1] (R126). -/
def window (s : State) : List U32 := (List.range s.cfg.n).map (fun k => windowSample k s)

/-- A state that may take a step: nothing was refused and the configuration is well formed (60_exceptions.md R215). -/
def Runnable (s : State) : Prop := s.refused = false ∧ s.cfg.wf = true

/-- The consumer is enabled with `iv` at the head of the channel (45_sequencer_host.md R185). -/
def Ready (s : State) (iv : U32) (rest : List U32) : Prop :=
  s.en = true ∧ s.refused = false ∧ s.chan = iv :: rest

/-- The window start of a trigger whose PUSH overwrites the slot at the cursor (42_ring_trigger_window.md R122). -/
def triggerAnchor (s : State) : Nat :=
  match s.cfg.anchorMode with
  | .afterAdvance => (s.cursor + 1) % s.cfg.n
  | .atSample => ((s.cursor + 1) % s.cfg.n + s.cfg.n - 1) % s.cfg.n

/-- The decode window of the trigger that pushing `iv` fires: the whole ring with `iv` in the slot at the cursor, read
from the anchor on (R120, R122, R126). -/
def triggerWindow (s : State) (iv : U32) : List U32 := (s.ring.set s.cursor iv).rotate (triggerAnchor s)

/-- The symbol of a sample (43_decoder.md R140), written as the rule's three cases. -/
def symbolOf (t1 t2 x : U32) : Sym := if x ≤ t1 ∧ ¬ t2 < x then .low else if x ≤ t2 then .mid else .high

/-- The operations DECODE runs on its samples, in order (43_decoder.md R145); the result fields are left blank, exec
does not read them. -/
def sampleOps (t1 t2 : U32) (xs : List U32) : List Instr :=
  xs.zipIdx.flatMap fun p =>
    [.winrd (BitVec.ofNat 16 p.2) 0, .classify .low p.1, .pairstep (symbolOf t1 t2 p.1) .none 0 false false false,
      .emitchk false 0 0]

/-- Match and mask of every operation, as the table of 30_encoding.md R85 has them. -/
def tableOfR85 : List (U64 × U64) :=
  [(0x0100000000000000, 0xFFFFFFFF00000000), (0x0200000000000000, 0xFFFFFFFFFFFFFFFF),
   (0x0300000000000000, 0xFFFFFF0000000000), (0x0400000000000000, 0xFFFFFF00FFFFFFFF),
   (0x0500000000000000, 0xFFFFFFFFFFFFFFFF), (0x1000000000000000, 0xFFFFFFFE00000000),
   (0x1100000000000000, 0xFFFFFFFF00000000), (0x1200000000000000, 0xFFFF000000000000),
   (0x1300000000000000, 0xFF7F000000000000), (0x1400000000000000, 0xFFFF000000000000),
   (0x1500000000000000, 0xFFFFFFFC00000000), (0x1600000000000000, 0xFFFF0000FFFFFFFF),
   (0x1700000000000000, 0xFFFFC000FFFFFFFF), (0x1800000000000000, 0xFF7F0000FFFFFFFF),
   (0x1900000000000000, 0xFF0000FCFFFFFFFF), (0x1A00000000000000, 0xFFFFFFFFFFFFFFFF)]

/-- The value checks of R76 and R78 on a word, at the bits of the word. -/
def ValueChecks (w : U64) : Prop :=
  ((opOf w = 0x15 ∨ opOf w = 0x17 ∨ opOf w = 0x19) → w.extractLsb' 32 2 ≠ 3#2) ∧
  (opOf w = 0x17 → w.extractLsb' 34 2 ≠ 3#2) ∧
  ((opOf w = 0x13 ∨ opOf w = 0x18) → w.getLsbD 55 = false → w.extractLsb' 32 16 = 0#16)

/-- A first word that spells an operation (R78, R85): some row's match and mask, and the value checks. -/
def SpellsOperation (w : U64) : Prop := (∃ p ∈ tableOfR85, w &&& p.2 = p.1) ∧ ValueChecks w

/-- A stimulus program's run is safe when it is completed (70_reset_and_hazards.md R242 (a)): not stuck, not refused,
not ill-configured. -/
def SafeRun (k : Nat) (s : State) : Prop := ∃ t, runProgram k s = .completed t

end Sys2Proof.Machine
end

