-- ==== Sys2Proof/Certificates/Slice0/Obligations.lean ====
section
/-! DEFINITION. The statements about ITSR for the provers. Each docstring names the rule it states or follows. An
operation's results are stated through the label it records, in the format of R76: R70 (2) lets a model keep that
history, and that this one keeps it in `labels` is the model's choice (log 8). Register reads are stated through the
record `reads` (log 9), "no transition" as the fault consumerHeld (log 12). -/

open Sys2Proof Sys2Proof.Machine

/-! ### Encoding -/

/-- Decoding the words of a well-formed operation, with any words after them, gives the operation back and leaves the
words after it (R71 to R77, R80). -/
def Obligations.DecodeInvertsEncode : Prop :=
  ∀ (i : Instr) (rest : List U64), i.wf = true → decode (encode i ++ rest) = .ok (i, rest)

/-- What the decoder reads is well formed, and encoding it gives the words it was read from: each word has one
meaning and no bit is dropped (R71 to R78). -/
def Obligations.EncodeInvertsDecode : Prop :=
  ∀ (ws : List U64) (i : Instr) (rest : List U64),
    decode ws = .ok (i, rest) → i.wf = true ∧ encode i ++ rest = ws

/-- The decoder's match and mask values are the table's (R85), and with the payload words its length asks for behind it
a first word is decoded to some operation exactly when it matches some row of that table and passes the value checks
(R78, R85). Which operation it is, EncodeInvertsDecode and SpecWordsDecode say. -/
def Obligations.DecodeAcceptsByMatchAndMask : Prop :=
  Opcode.all.map (fun o => (o.pattern, o.mask)) = tableOfR85 ∧
  ∀ (w : U64) (rest : List U64),
    wordCount w ≤ rest.length + 1 → ((∃ i r, decode (w :: rest) = .ok (i, r)) ↔ SpellsOperation w)

/-- R77: the number of words an operation takes is the one its first word alone gives: two for OP 0x18 with A[23] set,
three for OP 0x1A, and one otherwise. -/
def Obligations.LengthFromFirstWord : Prop :=
  ∀ (w : U64) (rest r : List U64) (i : Instr), decode (w :: rest) = .ok (i, r) →
    (w :: rest).length = r.length +
      (if opOf w = 0x18#8 ∧ w.getLsbD 55 = true then 2 else if opOf w = 0x1A#8 then 3 else 1)

/-- Words written out from the spec's encodings and examples decode to the operations they stand for (R73 to R76 and
the label words of 95_test_vectors.md 2.1). -/
def Obligations.SpecWordsDecode : Prop :=
  decode [0x01000000000002BC] = .ok (.edge 700, []) ∧
  decode [0x030000140000017C] = .ok (.regwr 0x14 380, []) ∧
  decode [0x0400001000000000] = .ok (.regrd 0x10, []) ∧
  decode [0x1380000600001770] = .ok (.trigchk true 6 6000, []) ∧
  decode [0x17001BF400000000] = .ok (.pairstep .low .mid 63 true true false, []) ∧
  decode [0x1880000000000000, 0xFFFFFFFFFFFFFFFE] = .ok (.emitchk true 0 0xFFFFFFFFFFFFFFFE, []) ∧
  decode [0x1900030200000000] = .ok (.extract 2 3, [])

/-! ### The step -/

/-- A step runs the decoded operation: in a state that may take a step, when the words at the front of the program
decode to a stimulus operation, the step is exec of it on the state with its words taken off (R70, R79; the program
as the list `stim` is the model's choice, log 10). -/
def Obligations.StepRunsTheDecodedStimulus : Prop :=
  ∀ (s : State) (i : Instr) (rest : List U64), Runnable s → decode s.stim = .ok (i, rest) →
    i.isStimulus = true → step s = exec i { s with stim := rest }

/-- R78, R217: a first word that spells no operation is refused with reason ENCODING. -/
def Obligations.WordsThatSpellNothingAreRefused : Prop :=
  ∀ (s : State) (w : U64) (rest : List U64), Runnable s → s.stim = w :: rest → ¬ SpellsOperation w →
    step s = .refused .encoding

/-- R79: only OP 0x01 to 0x05 may be a stimulus; a word that spells a label is refused with reason NOT_STIMULUS, its
payload words there or not (that it then is a label word all the same is the model's reading, log 13). -/
def Obligations.LabelWordsAreNotStimuli : Prop :=
  ∀ (s : State) (w : U64) (rest : List U64), Runnable s → s.stim = w :: rest → SpellsOperation w →
    0x10#8 ≤ opOf w → step s = .refused .notStimulus

/-- R7, R215: an ill-formed configuration is refused before any step, and after a refusal no step is taken (the mark
`refused` ends the run by a fault, the model's choice, log 11). -/
def Obligations.NoStepWithoutConfigurationOrAfterRefusal : Prop :=
  ∀ s : State,
    (s.refused = false → ¬ (1 ≤ s.cfg.n ∧ s.cfg.n ≤ 65535 ∧ 1 ≤ s.cfg.c ∧ s.cfg.c ≤ 65535 ∧ 1 ≤ s.cfg.w ∧
      s.cfg.w ≤ 65535) → step s = .refused .badParam) ∧
    (s.refused = true → ∀ t : State, step s ≠ .next t)

/-- R242: with one step more than it has words, a program that starts unrefused ends in one of the four ways:
completed with no word left and nothing refused, stuck at a CSTEP whose consumer is held, refused with the mark set,
or ill-configured exactly when the configuration is, in the state it was to start from with only the mark set (R215; the
four ends as constructors are the model's, logs 11 and 12). -/
def Obligations.EveryProgramEndsInOneOfFourWays : Prop :=
  ∀ s : State, s.refused = false →
    (∃ t, runProgram (s.stim.length + 1) s = .completed t ∧ t.stim = [] ∧ t.refused = false ∧
      s.cfg.wf = true) ∨
    (∃ t rest, runProgram (s.stim.length + 1) s = .stuck t ∧ decode t.stim = .ok (.cstep, rest) ∧
      (t.en = false ∨ t.chan = []) ∧ s.cfg.wf = true) ∨
    (∃ r t, runProgram (s.stim.length + 1) s = .refused r t ∧ t.refused = true ∧ s.cfg.wf = true) ∨
    (runProgram (s.stim.length + 1) s = .illConfigured { s with refused := true } ∧ s.cfg.wf = false)

/-! ### EdgeTimer and IntervalChannel -/

/-- R100: EDGE. With EN = 0 nothing changes; with EN = 1 `last` is updated whatever the send does, and the interval
(now - last) mod 2^32 is enqueued if the channel has room and dropped if not. -/
def Obligations.EdgeCapturesTheInterval : Prop :=
  ∀ (now : U32) (s : State),
    (s.en = false → exec (.edge now) s = .next s) ∧
    (s.en = true → s.chan.length < s.cfg.c → exec (.edge now) s = .next { s with
      last := now, chan := s.chan ++ [now - s.last], labels := s.labels ++ [.chsend true (now - s.last)] }) ∧
    (s.en = true → s.cfg.c ≤ s.chan.length → exec (.edge now) s = .next { s with
      last := now, labels := s.labels ++ [.chsend false (now - s.last)] })

/-- R101: CHSEND appends at the tail when |chan| < C and otherwise discards the interval and changes nothing else. -/
def Obligations.ChsendEnqueuesOrDrops : Prop :=
  ∀ (acc : Bool) (iv : U32) (s : State),
    (s.chan.length < s.cfg.c → exec (.chsend acc iv) s = .next { s with
      chan := s.chan ++ [iv], labels := s.labels ++ [.chsend true iv] }) ∧
    (s.cfg.c ≤ s.chan.length → exec (.chsend acc iv) s = .next { s with
      labels := s.labels ++ [.chsend false iv] })

/-- R102: CHRECV returns and removes the head of the channel; on an empty channel the consumer is held, which the model
answers as the fault consumerHeld (its reading of "no step", log 12). -/
def Obligations.ChrecvDequeuesTheOldest : Prop :=
  ∀ (x : U32) (s : State),
    (s.chan = [] → exec (.chrecv x) s = .fault .consumerHeld) ∧
    (∀ iv rest, s.chan = iv :: rest → exec (.chrecv x) s = .next { s with
      chan := rest, labels := s.labels ++ [.chrecv iv] })

/-- R104: an edge whose interval is dropped does not disturb the later ones: with a full channel, an edge at x, one
consumer step and an edge at y put y - x at the tail, the interval from the dropped edge. -/
def Obligations.DroppedEdgeKeepsTheTimeReference : Prop :=
  ∀ (s : State) (x y iv : U32) (rest : List U32), Ready s iv rest → s.chan.length = s.cfg.c →
    ∃ t, execAll [.edge x, .cstep, .edge y] s = .next t ∧ t.chan = rest ++ [y - x] ∧ t.last = y

/-- R60: FIFO order. As long as no RESET discards queued intervals, the intervals the history says were received,
followed by the channel's content, stay exactly the intervals it says were accepted, in order. -/
def Obligations.ReceivedThenQueuedIsAccepted : Prop :=
  ∀ (i : Instr) (s t : State), i ≠ .reset → exec i s = .next t →
    receivedIntervals s.labels ++ s.chan = acceptedIntervals s.labels →
    receivedIntervals t.labels ++ t.chan = acceptedIntervals t.labels

/-! ### SampleRing, trigger, window -/

/-- R120: PUSH overwrites the slot at the cursor and advances the cursor modulo N; nothing else changes. -/
def Obligations.PushOverwritesAndAdvances : Prop :=
  ∀ (slot : U16) (iv : U32) (s : State), Memory.wf s →
    exec (.push slot iv) s = .next { s with
      ring := s.ring.set s.cursor iv
      cursor := if s.cursor + 1 = s.cfg.n then 0 else s.cursor + 1
      labels := s.labels ++ [.push (BitVec.ofNat 16 s.cursor) iv] }

/-- R121: after any sequence of pushes the ring holds N samples and the cursor has advanced by their number modulo N;
in chronological order the samples are the last N of the old samples followed by the pushed ones. -/
def Obligations.PushesKeepTheLatestSamples : Prop :=
  ∀ (vs : List U32) (s : State), Memory.wf s →
    ∃ t, execAll (vs.map (fun v => Instr.push 0 v)) s = .next t ∧ Memory.wf t ∧
      t.cursor = (s.cursor + vs.length) % s.cfg.n ∧
      chronological t = (chronological s ++ vs).drop vs.length

/-- R122, R124: TRIGCHK fires exactly when the interval exceeds TRIG, unsigned and strictly; then it sets the anchor
by the anchor mode and counts the trigger, and otherwise changes nothing. -/
def Obligations.TrigchkComparesStrictly : Prop :=
  ∀ (f : Bool) (a : U16) (iv : U32) (s : State),
    (iv.toNat ≤ s.trig.toNat → exec (.trigchk f a iv) s = .next { s with
      labels := s.labels ++ [.trigchk false 0 iv] }) ∧
    (s.trig.toNat < iv.toNat → s.cfg.anchorMode = .afterAdvance → exec (.trigchk f a iv) s = .next { s with
      anchor := s.cursor, trgcnt := s.trgcnt + 1
      labels := s.labels ++ [.trigchk true (BitVec.ofNat 16 s.cursor) iv] }) ∧
    (s.trig.toNat < iv.toNat → s.cfg.anchorMode = .atSample → exec (.trigchk f a iv) s = .next { s with
      anchor := (s.cursor + s.cfg.n - 1) % s.cfg.n, trgcnt := s.trgcnt + 1
      labels := s.labels ++ [.trigchk true (BitVec.ofNat 16 ((s.cursor + s.cfg.n - 1) % s.cfg.n)) iv] })

/-- R125: WINRD reads ring slot (anchor + k) mod N, which is always there, and modifies neither the ring nor any other
register; k is the window index (R29, latched: the model's choice, log 17). -/
def Obligations.WinrdReadsTheRotatedSlot : Prop :=
  ∀ (k : U16) (y : U32) (s : State), Memory.wf s →
    ∃ x, s.ring[(s.anchor + k.toNat) % s.cfg.n]? = some x ∧
      exec (.winrd k y) s = .next { s with k := k.toNat % s.cfg.n, labels := s.labels ++ [.winrd k x] }

/-- R126: the window of the trigger that pushing `iv` fires. Under AFTER_ADVANCE it is the N most recent samples,
oldest first and `iv` last; under AT_SAMPLE `iv` comes first, followed by the others oldest first. -/
def Obligations.WindowIsChronologicalByAnchorMode : Prop :=
  ∀ (s : State) (iv : U32), Memory.wf s → s.trig < iv →
    ∃ t older, execAll [.push 0 iv, .trigchk false 0 iv] s = .next t ∧
      (chronological s ++ [iv]).drop 1 = older ++ [iv] ∧
      (s.cfg.anchorMode = .afterAdvance → window t = older ++ [iv]) ∧
      (s.cfg.anchorMode = .atSample → window t = iv :: older)

/-- R128: over any number of consumer steps TRGCNT counts, modulo 2^32, the received intervals that exceed TRIG: one
trigger for each, none for the others. -/
def Obligations.TriggersCountTheLongIntervals : Prop :=
  ∀ (m : Nat) (s : State), s.en = true → s.refused = false → m ≤ s.chan.length →
    ∃ t, execAll (List.replicate m .cstep) s = .next t ∧ t.chan = s.chan.drop m ∧
      t.trgcnt = s.trgcnt + BitVec.ofNat 32 ((s.chan.take m).countP (fun iv => decide (s.trig < iv)))

/-! ### PulseDecoder -/

/-- R140, R142: CLASSIFY gives LOW for x ≤ T1, MID for T1 < x ≤ T2 and HIGH for x > T2, with HIGH taken first when
T1 < T2 does not hold; no state changes but the record of the label. -/
def Obligations.ClassifyByThresholds : Prop :=
  ∀ (y : Sym) (x : U32) (s : State),
    (s.t2.toNat < x.toNat → exec (.classify y x) s = .next { s with labels := s.labels ++ [.classify .high x] }) ∧
    (x.toNat ≤ s.t2.toNat → s.t1.toNat < x.toNat →
      exec (.classify y x) s = .next { s with labels := s.labels ++ [.classify .mid x] }) ∧
    (x.toNat ≤ s.t2.toNat → x.toNat ≤ s.t1.toNat →
      exec (.classify y x) s = .next { s with labels := s.labels ++ [.classify .low x] })

/-- R141: DECINIT sets (0, 63, NONE) and wc = 0 and touches nothing else, STATUS.OVERRUN included. -/
def Obligations.DecinitStartsFresh : Prop :=
  ∀ (a : U16) (s : State), exec (.decinit a) s = .next { s with
    dec := { s.dec with acc := 0, bitpos := 63, prev := .none, wc := 0 }
    labels := s.labels ++ [.decinit a] }

/-- R143: PAIRSTEP. A HIGH resets; a LOW or MID without a pending half becomes pending; a pair closes: at -1 it sets
OVERRUN and changes neither acc nor bitpos, otherwise bit `bitpos` becomes 1 exactly for (MID, LOW) and bitpos
decrements. The values handed to EMITCHK, `closed` and `bitposBefore`, are latched in the state (the model's reading,
log 6). At a bitpos below -1, which no run reaches, the closing cases are the model's choice (log 21). -/
def Obligations.PairstepFollowsTheStateMachine : Prop :=
  ∀ (y : Prev) (bp : BitVec 7) (c b o : Bool) (s : State),
    (exec (.pairstep .high y bp c b o) s = .next { s with
      dec := { s.dec with acc := 0, bitpos := 63, prev := .none, closed := false, bitposBefore := s.dec.bitpos }
      labels := s.labels ++ [.pairstep .high s.dec.prev s.dec.bitpos false false false] }) ∧
    (s.dec.prev = .none → exec (.pairstep .low y bp c b o) s = .next { s with
      dec := { s.dec with prev := .low, closed := false, bitposBefore := s.dec.bitpos }
      labels := s.labels ++ [.pairstep .low .none s.dec.bitpos false false false] }) ∧
    (s.dec.prev = .none → exec (.pairstep .mid y bp c b o) s = .next { s with
      dec := { s.dec with prev := .mid, closed := false, bitposBefore := s.dec.bitpos }
      labels := s.labels ++ [.pairstep .mid .none s.dec.bitpos false false false] }) ∧
    (∀ sym, sym ≠ .high → s.dec.prev ≠ .none → s.dec.bitpos = -1 →
      exec (.pairstep sym y bp c b o) s = .next { s with
        dec := { s.dec with prev := .none, closed := true, bitposBefore := -1 }
        overrun := true
        labels := s.labels ++ [.pairstep sym s.dec.prev (-1) true false true] }) ∧
    (s.dec.prev = .mid → s.dec.bitpos ≠ -1 → exec (.pairstep .low y bp c b o) s = .next { s with
      dec := { s.dec with acc := s.dec.acc ||| 1#64 <<< s.dec.bitpos.toNat, bitpos := s.dec.bitpos - 1,
                          prev := .none, closed := true, bitposBefore := s.dec.bitpos }
      labels := s.labels ++ [.pairstep .low .mid s.dec.bitpos true true false] }) ∧
    (∀ sym, sym ≠ .high → s.dec.prev ≠ .none → ¬ (s.dec.prev = .mid ∧ sym = .low) → s.dec.bitpos ≠ -1 →
      exec (.pairstep sym y bp c b o) s = .next { s with
        dec := { s.dec with bitpos := s.dec.bitpos - 1, prev := .none, closed := true,
                            bitposBefore := s.dec.bitpos }
        labels := s.labels ++ [.pairstep sym s.dec.prev s.dec.bitpos true false false] })

/-- R144: EMITCHK emits acc to word slot wc exactly when bitpos = 0, acc ≠ 0 and wc < W, and under ON_DECREMENT also
the PAIRSTEP just done closed a pair at position 1, as the two latches say (log 6); otherwise nothing changes. -/
def Obligations.EmitchkEmitsAtTheTerminalPosition : Prop :=
  ∀ (e : Bool) (sl : U16) (v : U64) (s : State),
    ((s.dec.bitpos = 0 ∧ s.dec.acc ≠ 0 ∧ s.dec.wc < s.cfg.w ∧
        (s.cfg.emitMode = .onDecrement → s.dec.closed = true ∧ s.dec.bitposBefore = 1)) →
      exec (.emitchk e sl v) s = .next { s with
        dec := { s.dec with words := s.dec.words.set s.dec.wc s.dec.acc, wc := s.dec.wc + 1, bitpos := 0 }
        labels := s.labels ++ [.emitchk true (BitVec.ofNat 16 s.dec.wc) s.dec.acc] }) ∧
    (¬ (s.dec.bitpos = 0 ∧ s.dec.acc ≠ 0 ∧ s.dec.wc < s.cfg.w ∧
        (s.cfg.emitMode = .onDecrement → s.dec.closed = true ∧ s.dec.bitposBefore = 1)) →
      exec (.emitchk e sl v) s = .next { s with labels := s.labels ++ [.emitchk false 0 0] })

/-- R147: the bit position an emission writes is the one it already has: no EMITCHK changes bitpos, and acc is not
cleared. -/
def Obligations.EmissionRestoresNothing : Prop :=
  ∀ (e : Bool) (sl : U16) (v : U64) (s : State),
    ∃ t, exec (.emitchk e sl v) s = .next t ∧ t.dec.bitpos = s.dec.bitpos ∧ t.dec.acc = s.dec.acc

/-- R146, R239: a trigger whose window holds no run of 126 samples without a HIGH emits no word and no reading, in a
window of fewer than 126 samples always. -/
def Obligations.EmissionNeedsARunOf126 : Prop :=
  ∀ (s : State) (iv : U32) (rest : List U32), Memory.wf s → Ready s iv rest → s.trig < iv →
    (∀ pre run post, triggerWindow s iv = pre ++ run ++ post → run.length = 126 → ∃ x ∈ run, s.t2 < x) →
    ∃ t, exec .cstep s = .next t ∧ t.lastwc = 0 ∧ t.outs = s.outs ∧ t.rdcnt = s.rdcnt

/-- A trigger whose window holds no run of 130 samples without a HIGH leaves OVERRUN as it is (R143: such a window closes
no pair past position 0; R214's premise then holds). -/
def Obligations.OverrunNeedsARunOf130 : Prop :=
  ∀ (s : State) (iv : U32) (rest : List U32), Memory.wf s → Ready s iv rest → s.trig < iv →
    (∀ pre run post, triggerWindow s iv = pre ++ run ++ post → run.length = 130 → ∃ x ∈ run, s.t2 < x) →
    ∃ t, exec .cstep s = .next t ∧ t.overrun = s.overrun

/-- R148: DECODE's words, their number and whether it sets OVERRUN are a function of the window samples and of T1, T2,
W and EMIT_MODE alone. -/
def Obligations.DecodeDependsOnTheWindowAlone : Prop :=
  ∀ s u : State, Memory.wf s → Memory.wf u → window s = window u → s.t1 = u.t1 → s.t2 = u.t2 →
    s.cfg.w = u.cfg.w → s.cfg.emitMode = u.cfg.emitMode →
    emittedWords (decodeWindow s).dec = emittedWords (decodeWindow u).dec ∧
    (decodeWindow s).dec.wc = (decodeWindow u).dec.wc ∧
    ∃ b, (decodeWindow s).overrun = (s.overrun || b) ∧ (decodeWindow u).overrun = (u.overrun || b)

/-- R144's corner cases: a window without a HIGH is one frame, and a trigger over it emits at most two words, equal
ones, under LEVEL, and at most one under ON_DECREMENT; so it yields no reading. The words are read from the decoder after
the step, where the model keeps them (its reading, log 5). -/
def Obligations.OneFrameEmitsNoReading : Prop :=
  ∀ (s : State) (iv : U32) (rest : List U32), Memory.wf s → Ready s iv rest → s.trig < iv →
    (∀ x ∈ triggerWindow s iv, x ≤ s.t2) →
    ∃ t, exec .cstep s = .next t ∧ t.dec.wc ≤ 2 ∧ (s.cfg.emitMode = .onDecrement → t.dec.wc ≤ 1) ∧
      (∀ v ∈ emittedWords t.dec, ∀ w ∈ emittedWords t.dec, v = w) ∧ t.outs = s.outs

/-! ### WordExtractor and output -/

/-- R170, R172: EXTRACT scans the emitted words from the most recent backward and collects the first two distinct
values: none without a word, one when all words are equal, and otherwise the last word and the first one before it
that differs. Only the collected values change. -/
def Obligations.ExtractCollectsTheFirstTwoDistinct : Prop :=
  ∀ (n : BitVec 2) (wc : U16) (s : State),
    ∃ c : Collected, exec (.extract n wc) s = .next { s with
        col := c, labels := s.labels ++ [.extract (BitVec.ofNat 2 c.n) (BitVec.ofNat 16 s.dec.wc)] } ∧
      ((s.dec.words.take s.dec.wc).reverse = [] → c = { n := 0, a := 0, b := 0 }) ∧
      (∀ x ys, (s.dec.words.take s.dec.wc).reverse = x :: ys → (∀ y ∈ ys, y = x) → c = { n := 1, a := x, b := 0 }) ∧
      (∀ x ys y zs, (s.dec.words.take s.dec.wc).reverse = x :: (ys ++ y :: zs) → (∀ z ∈ ys, z = x) → y ≠ x →
        c = { n := 2, a := x, b := y })

/-- R175: OUTPUT appends the pair to the output history, writes both mirrors and counts the reading modulo 2^32. -/
def Obligations.OutputHandsOutTheReading : Prop :=
  ∀ (a b : U64) (s : State), exec (.output a b) s = .next { s with
    outs := s.outs ++ [(a, b)], rda := a, rdb := b, rdcnt := s.rdcnt + 1, labels := s.labels ++ [.output a b] }

/-- R44: the output history is never cleared: whatever operation runs, RESET included, the old history is the beginning
of the new one. -/
def Obligations.OutputHistoryOnlyGrows : Prop :=
  ∀ (i : Instr) (s t : State), exec i s = .next t → s.outs <+: t.outs

/-- R235: RDA, RDB and RDCNT change only together with the output history, in one OUTPUT: an operation other than RESET
leaves all four or appends one reading, mirrors it, and counts it. -/
def Obligations.ReadingRegistersChangeTogether : Prop :=
  ∀ (i : Instr) (s t : State), i ≠ .reset → exec i s = .next t →
    (t.outs = s.outs ∧ t.rda = s.rda ∧ t.rdb = s.rdb ∧ t.rdcnt = s.rdcnt) ∨
    (t.outs = s.outs ++ [(t.rda, t.rdb)] ∧ t.rdcnt = s.rdcnt + 1)

/-! ### Consumer sequencer -/

/-- R185: the consumer has a step exactly when EN = 1, the channel is not empty and nothing was refused; otherwise
CSTEP has no transition. -/
def Obligations.ConsumerStepsExactlyWhenEnabled : Prop :=
  ∀ s : State,
    ((∃ t, exec .cstep s = .next t) ↔ (s.en = true ∧ s.chan ≠ [] ∧ s.refused = false)) ∧
    (¬ (s.en = true ∧ s.chan ≠ [] ∧ s.refused = false) → exec .cstep s = .fault .consumerHeld)

/-- R186: a CSTEP without a trigger changes only the channel, the ring and the cursor. -/
def Obligations.CstepWithoutTriggerOnlyPushes : Prop :=
  ∀ (s : State) (iv : U32) (rest : List U32), Memory.wf s → Ready s iv rest → ¬ s.trig < iv →
    exec .cstep s = .next { s with
      chan := rest
      ring := s.ring.set s.cursor iv
      cursor := (s.cursor + 1) % s.cfg.n
      labels := s.labels ++ [.chrecv iv, .push (BitVec.ofNat 16 s.cursor) iv, .trigchk false 0 iv] }

/-- R186, R145: a CSTEP that fires runs its operations in the fixed order, over the whole window, writes LASTWC, and
runs OUTPUT exactly when EXTRACT collected two values. The states compared hold the decode-transient registers as the
operations left them (the model's reading, logs 5, 6 and 17). -/
def Obligations.CstepOnTriggerRunsItsOperations : Prop :=
  ∀ (s : State) (iv : U32) (rest : List U32), s.cfg.wf = true → Memory.wf s → Ready s iv rest → s.trig < iv →
    ∃ u, execAll ([.chrecv iv, .push 0 iv, .trigchk true 0 iv, .decinit (BitVec.ofNat 16 (triggerAnchor s))] ++
        sampleOps s.t1 s.t2 (triggerWindow s iv) ++ [.extract 0 0]) s = .next u ∧
      (u.col.n ≠ 2 → exec .cstep s = .next { u with lastwc := BitVec.ofNat 16 u.dec.wc }) ∧
      (u.col.n = 2 → ∃ v, exec (.output u.col.a u.col.b) u = .next v ∧
        exec .cstep s = .next { v with lastwc := BitVec.ofNat 16 u.dec.wc })

/-- R187: EDGE and CSTEP commute on the hardware when the channel has room; when it is full, the only difference
between the two orders is whether the freed slot is free for the edge's interval. -/
def Obligations.EdgeAndCstepCommute : Prop :=
  ∀ (s : State) (now iv : U32) (rest : List U32), Ready s iv rest → s.chan.length ≤ s.cfg.c →
    ∃ a b, execAll [.edge now, .cstep] s = .next a ∧ execAll [.cstep, .edge now] s = .next b ∧
      (s.chan.length < s.cfg.c → a.hardware = b.hardware) ∧
      (s.chan.length = s.cfg.c → b.hardware = { a.hardware with chan := a.chan ++ [now - s.last] })

/-! ### Host registers -/

/-- R191: CTRL_WRITE. Bit 0 = 0 disables; bit 0 = 1 enables when T1 < T2, sets BADCFG when not, and changes nothing
while EN = 1. The other bits are ignored. -/
def Obligations.CtrlWriteEnablesOrderedThresholds : Prop :=
  ∀ (data : U32) (s : State),
    (data.getLsbD 0 = false → exec (.regwr 0x0C data) s = .next { s with en := false }) ∧
    (data.getLsbD 0 = true → s.en = false → s.t1.toNat < s.t2.toNat →
      exec (.regwr 0x0C data) s = .next { s with en := true }) ∧
    (data.getLsbD 0 = true → s.en = false → s.t2.toNat ≤ s.t1.toNat →
      exec (.regwr 0x0C data) s = .next { s with badcfg := true }) ∧
    (data.getLsbD 0 = true → s.en = true → exec (.regwr 0x0C data) s = .next s)

/-- R192: THRESH_WRITE. With EN = 1 the write is ignored and CFGWE is set; with EN = 0 the register at the offset is
written. -/
def Obligations.ThresholdWritesAreLocked : Prop :=
  ∀ (data : U32) (s : State),
    (s.en = true → ∀ off ∈ [0x14#8, 0x18#8, 0x1C#8], exec (.regwr off data) s = .next { s with cfgwe := true }) ∧
    (s.en = false → exec (.regwr 0x14 data) s = .next { s with t1 := data } ∧
      exec (.regwr 0x18 data) s = .next { s with t2 := data } ∧
      exec (.regwr 0x1C data) s = .next { s with trig := data })

/-- R193: STATUS_WRITE clears exactly the flags whose bit is written 1, and sets none. -/
def Obligations.StatusWriteOneClears : Prop :=
  ∀ (data : U32) (s : State), exec (.regwr 0x10 data) s = .next { s with
    badcfg := if data.getLsbD 0 then false else s.badcfg
    cfgwe := if data.getLsbD 1 then false else s.cfgwe
    overrun := if data.getLsbD 2 then false else s.overrun }

/-- R53, R190: an access at an offset that is not a multiple of 4 is refused MISALIGNED, and a write to an aligned
offset other than those of CTRL, STATUS, T1, T2 and TRIG changes nothing. -/
def Obligations.OtherRegisterAccesses : Prop :=
  ∀ (off : U8) (data : U32) (s : State),
    (off.toNat % 4 ≠ 0 → exec (.regwr off data) s = .refused .misaligned ∧
      exec (.regrd off) s = .refused .misaligned) ∧
    (off.toNat % 4 = 0 → off ∉ [0x0C#8, 0x10#8, 0x14#8, 0x18#8, 0x1C#8] → exec (.regwr off data) s = .next s)

/-- R194: the value of a read at every offset of the map, 0 at the reserved ones; it is the step's result and nothing
else changes. -/
def Obligations.ReadReturnsTheRegister : Prop :=
  ∀ s : State,
    (∀ p ∈ ([(0x00#8, BitVec.ofNat 32 s.cfg.n), (0x04#8, BitVec.ofNat 16 s.cfg.w ++ BitVec.ofNat 16 s.cfg.c),
        (0x08#8, (if s.cfg.emitMode = .onDecrement then 2#32 else 0#32) +
          (if s.cfg.anchorMode = .atSample then 1#32 else 0#32)),
        (0x0C#8, if s.en then 1#32 else 0#32),
        (0x10#8, (if s.overrun then 4#32 else 0#32) + (if s.cfgwe then 2#32 else 0#32) +
          (if s.badcfg then 1#32 else 0#32)),
        (0x14#8, s.t1), (0x18#8, s.t2), (0x1C#8, s.trig),
        (0x20#8, s.rda.setWidth 32), (0x24#8, (s.rda >>> 32).setWidth 32),
        (0x28#8, s.rdb.setWidth 32), (0x2C#8, (s.rdb >>> 32).setWidth 32),
        (0x30#8, s.rdcnt), (0x34#8, s.trgcnt), (0x38#8, s.lastwc.setWidth 32)] : List (U8 × U32)),
      exec (.regrd p.1) s = .next { s with reads := s.reads ++ [p] }) ∧
    (∀ off : U8, 0x3C ≤ off.toNat → off.toNat % 4 = 0 →
      exec (.regrd off) s = .next { s with reads := s.reads ++ [(off, 0)] })

/-- R196: disabling keeps every register, an edge while disabled has no effect, and a re-enable with T1 < T2 resumes
from the very state that was stopped. -/
def Obligations.DisableAndReenableResume : Prop :=
  ∀ (s : State) (off on now : U32), s.en = true → s.t1 < s.t2 → off.getLsbD 0 = false → on.getLsbD 0 = true →
    execAll [.regwr 0x0C off, .edge now] s = .next { s with en := false } ∧
    exec .cstep { s with en := false } = .fault .consumerHeld ∧
    execAll [.regwr 0x0C off, .edge now, .regwr 0x0C on] s = .next s

/-- R237: T1, T2 and TRIG cannot change while EN = 1 except by RESET, and never change but by RESET or by a write of
theirs while EN = 0. -/
def Obligations.ConfigurationIsLockedWhileEnabled : Prop :=
  ∀ (i : Instr) (s t : State), exec i s = .next t → i ≠ .reset → (t.t1, t.t2, t.trig) ≠ (s.t1, s.t2, s.trig) →
    s.en = false ∧ ∃ off data, i = .regwr off data ∧ off ∈ [0x14#8, 0x18#8, 0x1C#8]

/-- R59: which stimulus may touch which state: the ring, the cursor, the decode-transient state and the result
registers only CSTEP, `last` only EDGE, the thresholds, EN and the configuration flags only REGWR, OVERRUN only CSTEP
and REGWR; and RESET. No step writes the configuration, the refusal mark or the program. -/
def Obligations.EachAgentWritesItsOwnState : Prop :=
  ∀ (i : Instr) (s t : State), i.isStimulus = true → exec i s = .next t →
    (t.cfg, t.refused, t.stim) = (s.cfg, s.refused, s.stim) ∧
    (i ≠ .reset →
      (i ≠ .cstep → (t.ring, t.cursor, t.dec, t.col, t.anchor, t.k) = (s.ring, s.cursor, s.dec, s.col, s.anchor, s.k) ∧
        (t.rda, t.rdb, t.rdcnt, t.trgcnt, t.lastwc, t.outs) = (s.rda, s.rdb, s.rdcnt, s.trgcnt, s.lastwc, s.outs)) ∧
      ((∀ now, i ≠ .edge now) → t.last = s.last ∧ t.chan <:+ s.chan) ∧
      ((∀ off data, i ≠ .regwr off data) →
        (t.t1, t.t2, t.trig, t.en, t.badcfg, t.cfgwe) = (s.t1, s.t2, s.trig, s.en, s.badcfg, s.cfgwe) ∧
        (i ≠ .cstep → t.overrun = s.overrun)) ∧
      ((∀ off, i ≠ .regrd off) → t.reads = s.reads))

/-- R212, R213: a step that meets DROP, UNDERFLOW or TRUNC changes nothing beyond its label and, for UNDERFLOW, the
collected values, and records nothing; OVERRUN, BADCFG and CFGWE set their flag, BADCFG leaves EN at 0 and CFGWE leaves
the thresholds. -/
def Obligations.ConditionsRecordWhatTheTableSays : Prop :=
  ∀ (i : Instr) (s : State),
    (Condition.drop.metBy i s = true ∨ Condition.trunc.metBy i s = true →
      ∃ l, exec i s = .next { s with labels := s.labels ++ [l] }) ∧
    (Condition.underflow.metBy i s = true →
      ∃ c l, exec i s = .next { s with col := c, labels := s.labels ++ [l] } ∧ c.n < 2) ∧
    (Condition.overrun.metBy i s = true → ∃ t, exec i s = .next t ∧ t.overrun = true) ∧
    (Condition.badcfg.metBy i s = true → exec i s = .next { s with badcfg := true } ∧ s.en = false) ∧
    (Condition.cfgwe.metBy i s = true → exec i s = .next { s with cfgwe := true })

/-- R83: with the running time in step with `last`, the pseudo-instruction `iv x` delivers exactly the interval x to
the ring slot at the cursor and leaves the running time in step. -/
def Obligations.IvDeliversExactlyTheInterval : Prop :=
  ∀ (s : State) (x : U32), Memory.wf s → s.en = true → s.refused = false → s.chan = [] → 1 ≤ s.cfg.c →
    ∃ t, execAll (expandStmt s.last (.iv x)) s = .next t ∧ t.ring = s.ring.set s.cursor x ∧ t.chan = [] ∧
      t.last = timeAfter s.last (.iv x)

/-! ### Reset -/

/-- R230: RESET returns every architectural register to its reset value, LAST0 and RING_INIT as the parameters give
them, discards queued intervals, and changes neither `outs` nor `refused`. That it also leaves the decode-transient
registers (log 4) and the records `labels`, `reads` and `stim` (logs 8, 9 and 10) is the model's choice. -/
def Obligations.ResetRestoresTheRegisters : Prop :=
  ∀ s : State, exec .reset s = .next { s with
    en := false, badcfg := false, cfgwe := false, overrun := false, t1 := 0, t2 := 0, trig := 0,
    last := s.cfg.last0, chan := [], ring := (List.range s.cfg.n).map s.cfg.ringAt, cursor := 0,
    rda := 0, rdb := 0, rdcnt := 0, trgcnt := 0, lastwc := 0 }

/-- R231: a run starts in the state RESET produces, with outs empty and nothing refused. The decode-transient state
and the model's own records are taken from the start state: RESET does not set them (log 4). -/
def Obligations.RunsStartWhereResetLeads : Prop :=
  ∀ s : State, ∃ t, exec .reset s = .next t ∧
    { t with dec := (State.init s.cfg).dec, col := (State.init s.cfg).col, anchor := 0, k := 0, reads := [],
             labels := [], stim := [], outs := [], refused := false } = State.init s.cfg ∧
    (State.init s.cfg).outs = [] ∧ (State.init s.cfg).refused = false

/-! ### The invariant -/

/-- The invariant holds in the state a run starts in, under every well-formed configuration, and in State.reset (the
decode-transient values there are the model's choice, log 4, and State.reset's configuration, logs 1 and 2). -/
def Obligations.InvariantHoldsAtReset : Prop :=
  (∀ c : Config, c.wf = true → (State.init c).Inv) ∧ State.reset.Inv

/-- Every step keeps the invariant (R22, R23, R25, R27, R140's opening, R146, R172): the ring keeps N samples and a
cursor below N, the channel at most C entries, the decoder its ranges, T1 < T2 while enabled, every emitted word is
nonzero with bit 0 clear, and every reading handed out is a pair of distinct such words. -/
def Obligations.EveryStepKeepsTheInvariant : Prop :=
  ∀ s t : State, s.Inv → step s = .next t → t.Inv
end

