-- ==== Sys2Proof/Laws/State.lean ====
section
/-! SUPPORT. One lemma per field of State and per shared update of it: what the update leaves in the field. Every
lemma is true by rfl and tagged simp, so that no later proof unfolds a record update. -/

namespace Sys2Proof.Machine

variable (s : State)

/-! ### record -/

@[simp] theorem record_cfg (l : Instr) : (record l s).cfg = s.cfg := rfl
@[simp] theorem record_last (l : Instr) : (record l s).last = s.last := rfl
@[simp] theorem record_chan (l : Instr) : (record l s).chan = s.chan := rfl
@[simp] theorem record_ring (l : Instr) : (record l s).ring = s.ring := rfl
@[simp] theorem record_cursor (l : Instr) : (record l s).cursor = s.cursor := rfl
@[simp] theorem record_en (l : Instr) : (record l s).en = s.en := rfl
@[simp] theorem record_badcfg (l : Instr) : (record l s).badcfg = s.badcfg := rfl
@[simp] theorem record_cfgwe (l : Instr) : (record l s).cfgwe = s.cfgwe := rfl
@[simp] theorem record_overrun (l : Instr) : (record l s).overrun = s.overrun := rfl
@[simp] theorem record_t1 (l : Instr) : (record l s).t1 = s.t1 := rfl
@[simp] theorem record_t2 (l : Instr) : (record l s).t2 = s.t2 := rfl
@[simp] theorem record_trig (l : Instr) : (record l s).trig = s.trig := rfl
@[simp] theorem record_rda (l : Instr) : (record l s).rda = s.rda := rfl
@[simp] theorem record_rdb (l : Instr) : (record l s).rdb = s.rdb := rfl
@[simp] theorem record_rdcnt (l : Instr) : (record l s).rdcnt = s.rdcnt := rfl
@[simp] theorem record_trgcnt (l : Instr) : (record l s).trgcnt = s.trgcnt := rfl
@[simp] theorem record_lastwc (l : Instr) : (record l s).lastwc = s.lastwc := rfl
@[simp] theorem record_dec (l : Instr) : (record l s).dec = s.dec := rfl
@[simp] theorem record_col (l : Instr) : (record l s).col = s.col := rfl
@[simp] theorem record_anchor (l : Instr) : (record l s).anchor = s.anchor := rfl
@[simp] theorem record_k (l : Instr) : (record l s).k = s.k := rfl
@[simp] theorem record_outs (l : Instr) : (record l s).outs = s.outs := rfl
@[simp] theorem record_refused (l : Instr) : (record l s).refused = s.refused := rfl
@[simp] theorem record_reads (l : Instr) : (record l s).reads = s.reads := rfl
@[simp] theorem record_labels (l : Instr) : (record l s).labels = s.labels ++ [l] := rfl
@[simp] theorem record_stim (l : Instr) : (record l s).stim = s.stim := rfl

/-! ### recordRead -/

@[simp] theorem recordRead_cfg (off : U8) (v : U32) : (recordRead off v s).cfg = s.cfg := rfl
@[simp] theorem recordRead_last (off : U8) (v : U32) : (recordRead off v s).last = s.last := rfl
@[simp] theorem recordRead_chan (off : U8) (v : U32) : (recordRead off v s).chan = s.chan := rfl
@[simp] theorem recordRead_ring (off : U8) (v : U32) : (recordRead off v s).ring = s.ring := rfl
@[simp] theorem recordRead_cursor (off : U8) (v : U32) : (recordRead off v s).cursor = s.cursor := rfl
@[simp] theorem recordRead_en (off : U8) (v : U32) : (recordRead off v s).en = s.en := rfl
@[simp] theorem recordRead_badcfg (off : U8) (v : U32) : (recordRead off v s).badcfg = s.badcfg := rfl
@[simp] theorem recordRead_cfgwe (off : U8) (v : U32) : (recordRead off v s).cfgwe = s.cfgwe := rfl
@[simp] theorem recordRead_overrun (off : U8) (v : U32) : (recordRead off v s).overrun = s.overrun := rfl
@[simp] theorem recordRead_t1 (off : U8) (v : U32) : (recordRead off v s).t1 = s.t1 := rfl
@[simp] theorem recordRead_t2 (off : U8) (v : U32) : (recordRead off v s).t2 = s.t2 := rfl
@[simp] theorem recordRead_trig (off : U8) (v : U32) : (recordRead off v s).trig = s.trig := rfl
@[simp] theorem recordRead_rda (off : U8) (v : U32) : (recordRead off v s).rda = s.rda := rfl
@[simp] theorem recordRead_rdb (off : U8) (v : U32) : (recordRead off v s).rdb = s.rdb := rfl
@[simp] theorem recordRead_rdcnt (off : U8) (v : U32) : (recordRead off v s).rdcnt = s.rdcnt := rfl
@[simp] theorem recordRead_trgcnt (off : U8) (v : U32) : (recordRead off v s).trgcnt = s.trgcnt := rfl
@[simp] theorem recordRead_lastwc (off : U8) (v : U32) : (recordRead off v s).lastwc = s.lastwc := rfl
@[simp] theorem recordRead_dec (off : U8) (v : U32) : (recordRead off v s).dec = s.dec := rfl
@[simp] theorem recordRead_col (off : U8) (v : U32) : (recordRead off v s).col = s.col := rfl
@[simp] theorem recordRead_anchor (off : U8) (v : U32) : (recordRead off v s).anchor = s.anchor := rfl
@[simp] theorem recordRead_k (off : U8) (v : U32) : (recordRead off v s).k = s.k := rfl
@[simp] theorem recordRead_outs (off : U8) (v : U32) : (recordRead off v s).outs = s.outs := rfl
@[simp] theorem recordRead_refused (off : U8) (v : U32) : (recordRead off v s).refused = s.refused := rfl
@[simp] theorem recordRead_reads (off : U8) (v : U32) : (recordRead off v s).reads = s.reads ++ [(off, v)] := rfl
@[simp] theorem recordRead_labels (off : U8) (v : U32) : (recordRead off v s).labels = s.labels := rfl
@[simp] theorem recordRead_stim (off : U8) (v : U32) : (recordRead off v s).stim = s.stim := rfl

/-! ### markRefused -/

@[simp] theorem markRefused_cfg : (markRefused s).cfg = s.cfg := rfl
@[simp] theorem markRefused_last : (markRefused s).last = s.last := rfl
@[simp] theorem markRefused_chan : (markRefused s).chan = s.chan := rfl
@[simp] theorem markRefused_ring : (markRefused s).ring = s.ring := rfl
@[simp] theorem markRefused_cursor : (markRefused s).cursor = s.cursor := rfl
@[simp] theorem markRefused_en : (markRefused s).en = s.en := rfl
@[simp] theorem markRefused_badcfg : (markRefused s).badcfg = s.badcfg := rfl
@[simp] theorem markRefused_cfgwe : (markRefused s).cfgwe = s.cfgwe := rfl
@[simp] theorem markRefused_overrun : (markRefused s).overrun = s.overrun := rfl
@[simp] theorem markRefused_t1 : (markRefused s).t1 = s.t1 := rfl
@[simp] theorem markRefused_t2 : (markRefused s).t2 = s.t2 := rfl
@[simp] theorem markRefused_trig : (markRefused s).trig = s.trig := rfl
@[simp] theorem markRefused_rda : (markRefused s).rda = s.rda := rfl
@[simp] theorem markRefused_rdb : (markRefused s).rdb = s.rdb := rfl
@[simp] theorem markRefused_rdcnt : (markRefused s).rdcnt = s.rdcnt := rfl
@[simp] theorem markRefused_trgcnt : (markRefused s).trgcnt = s.trgcnt := rfl
@[simp] theorem markRefused_lastwc : (markRefused s).lastwc = s.lastwc := rfl
@[simp] theorem markRefused_dec : (markRefused s).dec = s.dec := rfl
@[simp] theorem markRefused_col : (markRefused s).col = s.col := rfl
@[simp] theorem markRefused_anchor : (markRefused s).anchor = s.anchor := rfl
@[simp] theorem markRefused_k : (markRefused s).k = s.k := rfl
@[simp] theorem markRefused_outs : (markRefused s).outs = s.outs := rfl
@[simp] theorem markRefused_refused : (markRefused s).refused = true := rfl
@[simp] theorem markRefused_reads : (markRefused s).reads = s.reads := rfl
@[simp] theorem markRefused_labels : (markRefused s).labels = s.labels := rfl
@[simp] theorem markRefused_stim : (markRefused s).stim = s.stim := rfl

/-! ### chsend -/

@[simp] theorem chsend_cfg (iv : U32) : (chsend iv s).cfg = s.cfg := rfl
@[simp] theorem chsend_last (iv : U32) : (chsend iv s).last = s.last := rfl
@[simp] theorem chsend_chan (iv : U32) : (chsend iv s).chan = chanPush iv s := rfl
@[simp] theorem chsend_ring (iv : U32) : (chsend iv s).ring = s.ring := rfl
@[simp] theorem chsend_cursor (iv : U32) : (chsend iv s).cursor = s.cursor := rfl
@[simp] theorem chsend_en (iv : U32) : (chsend iv s).en = s.en := rfl
@[simp] theorem chsend_badcfg (iv : U32) : (chsend iv s).badcfg = s.badcfg := rfl
@[simp] theorem chsend_cfgwe (iv : U32) : (chsend iv s).cfgwe = s.cfgwe := rfl
@[simp] theorem chsend_overrun (iv : U32) : (chsend iv s).overrun = s.overrun := rfl
@[simp] theorem chsend_t1 (iv : U32) : (chsend iv s).t1 = s.t1 := rfl
@[simp] theorem chsend_t2 (iv : U32) : (chsend iv s).t2 = s.t2 := rfl
@[simp] theorem chsend_trig (iv : U32) : (chsend iv s).trig = s.trig := rfl
@[simp] theorem chsend_rda (iv : U32) : (chsend iv s).rda = s.rda := rfl
@[simp] theorem chsend_rdb (iv : U32) : (chsend iv s).rdb = s.rdb := rfl
@[simp] theorem chsend_rdcnt (iv : U32) : (chsend iv s).rdcnt = s.rdcnt := rfl
@[simp] theorem chsend_trgcnt (iv : U32) : (chsend iv s).trgcnt = s.trgcnt := rfl
@[simp] theorem chsend_lastwc (iv : U32) : (chsend iv s).lastwc = s.lastwc := rfl
@[simp] theorem chsend_dec (iv : U32) : (chsend iv s).dec = s.dec := rfl
@[simp] theorem chsend_col (iv : U32) : (chsend iv s).col = s.col := rfl
@[simp] theorem chsend_anchor (iv : U32) : (chsend iv s).anchor = s.anchor := rfl
@[simp] theorem chsend_k (iv : U32) : (chsend iv s).k = s.k := rfl
@[simp] theorem chsend_outs (iv : U32) : (chsend iv s).outs = s.outs := rfl
@[simp] theorem chsend_refused (iv : U32) : (chsend iv s).refused = s.refused := rfl
@[simp] theorem chsend_reads (iv : U32) : (chsend iv s).reads = s.reads := rfl
@[simp] theorem chsend_labels (iv : U32) : (chsend iv s).labels = s.labels ++ [.chsend (chanAccepts s) iv] := rfl
@[simp] theorem chsend_stim (iv : U32) : (chsend iv s).stim = s.stim := rfl

/-! ### chrecv -/

@[simp] theorem chrecv_cfg : (chrecv s).cfg = s.cfg := rfl
@[simp] theorem chrecv_last : (chrecv s).last = s.last := rfl
@[simp] theorem chrecv_chan : (chrecv s).chan = s.chan.tail := rfl
@[simp] theorem chrecv_ring : (chrecv s).ring = s.ring := rfl
@[simp] theorem chrecv_cursor : (chrecv s).cursor = s.cursor := rfl
@[simp] theorem chrecv_en : (chrecv s).en = s.en := rfl
@[simp] theorem chrecv_badcfg : (chrecv s).badcfg = s.badcfg := rfl
@[simp] theorem chrecv_cfgwe : (chrecv s).cfgwe = s.cfgwe := rfl
@[simp] theorem chrecv_overrun : (chrecv s).overrun = s.overrun := rfl
@[simp] theorem chrecv_t1 : (chrecv s).t1 = s.t1 := rfl
@[simp] theorem chrecv_t2 : (chrecv s).t2 = s.t2 := rfl
@[simp] theorem chrecv_trig : (chrecv s).trig = s.trig := rfl
@[simp] theorem chrecv_rda : (chrecv s).rda = s.rda := rfl
@[simp] theorem chrecv_rdb : (chrecv s).rdb = s.rdb := rfl
@[simp] theorem chrecv_rdcnt : (chrecv s).rdcnt = s.rdcnt := rfl
@[simp] theorem chrecv_trgcnt : (chrecv s).trgcnt = s.trgcnt := rfl
@[simp] theorem chrecv_lastwc : (chrecv s).lastwc = s.lastwc := rfl
@[simp] theorem chrecv_dec : (chrecv s).dec = s.dec := rfl
@[simp] theorem chrecv_col : (chrecv s).col = s.col := rfl
@[simp] theorem chrecv_anchor : (chrecv s).anchor = s.anchor := rfl
@[simp] theorem chrecv_k : (chrecv s).k = s.k := rfl
@[simp] theorem chrecv_outs : (chrecv s).outs = s.outs := rfl
@[simp] theorem chrecv_refused : (chrecv s).refused = s.refused := rfl
@[simp] theorem chrecv_reads : (chrecv s).reads = s.reads := rfl
@[simp] theorem chrecv_labels : (chrecv s).labels = s.labels ++ [.chrecv (chanHead s)] := rfl
@[simp] theorem chrecv_stim : (chrecv s).stim = s.stim := rfl

/-! ### captureEdge -/

@[simp] theorem captureEdge_cfg (now : U32) : (captureEdge now s).cfg = s.cfg := rfl
@[simp] theorem captureEdge_last (now : U32) : (captureEdge now s).last = now := rfl
@[simp] theorem captureEdge_chan (now : U32) : (captureEdge now s).chan = chanPush (now - s.last) s := rfl
@[simp] theorem captureEdge_ring (now : U32) : (captureEdge now s).ring = s.ring := rfl
@[simp] theorem captureEdge_cursor (now : U32) : (captureEdge now s).cursor = s.cursor := rfl
@[simp] theorem captureEdge_en (now : U32) : (captureEdge now s).en = s.en := rfl
@[simp] theorem captureEdge_badcfg (now : U32) : (captureEdge now s).badcfg = s.badcfg := rfl
@[simp] theorem captureEdge_cfgwe (now : U32) : (captureEdge now s).cfgwe = s.cfgwe := rfl
@[simp] theorem captureEdge_overrun (now : U32) : (captureEdge now s).overrun = s.overrun := rfl
@[simp] theorem captureEdge_t1 (now : U32) : (captureEdge now s).t1 = s.t1 := rfl
@[simp] theorem captureEdge_t2 (now : U32) : (captureEdge now s).t2 = s.t2 := rfl
@[simp] theorem captureEdge_trig (now : U32) : (captureEdge now s).trig = s.trig := rfl
@[simp] theorem captureEdge_rda (now : U32) : (captureEdge now s).rda = s.rda := rfl
@[simp] theorem captureEdge_rdb (now : U32) : (captureEdge now s).rdb = s.rdb := rfl
@[simp] theorem captureEdge_rdcnt (now : U32) : (captureEdge now s).rdcnt = s.rdcnt := rfl
@[simp] theorem captureEdge_trgcnt (now : U32) : (captureEdge now s).trgcnt = s.trgcnt := rfl
@[simp] theorem captureEdge_lastwc (now : U32) : (captureEdge now s).lastwc = s.lastwc := rfl
@[simp] theorem captureEdge_dec (now : U32) : (captureEdge now s).dec = s.dec := rfl
@[simp] theorem captureEdge_col (now : U32) : (captureEdge now s).col = s.col := rfl
@[simp] theorem captureEdge_anchor (now : U32) : (captureEdge now s).anchor = s.anchor := rfl
@[simp] theorem captureEdge_k (now : U32) : (captureEdge now s).k = s.k := rfl
@[simp] theorem captureEdge_outs (now : U32) : (captureEdge now s).outs = s.outs := rfl
@[simp] theorem captureEdge_refused (now : U32) : (captureEdge now s).refused = s.refused := rfl
@[simp] theorem captureEdge_reads (now : U32) : (captureEdge now s).reads = s.reads := rfl
@[simp] theorem captureEdge_labels (now : U32) : (captureEdge now s).labels = s.labels ++ [.chsend (chanAccepts s) (now - s.last)] := rfl
@[simp] theorem captureEdge_stim (now : U32) : (captureEdge now s).stim = s.stim := rfl

/-! ### push -/

@[simp] theorem push_cfg (iv : U32) : (push iv s).cfg = s.cfg := rfl
@[simp] theorem push_last (iv : U32) : (push iv s).last = s.last := rfl
@[simp] theorem push_chan (iv : U32) : (push iv s).chan = s.chan := rfl
@[simp] theorem push_ring (iv : U32) : (push iv s).ring = ringWrite s.cursor iv s := rfl
@[simp] theorem push_cursor (iv : U32) : (push iv s).cursor = advance s.cursor s.cfg := rfl
@[simp] theorem push_en (iv : U32) : (push iv s).en = s.en := rfl
@[simp] theorem push_badcfg (iv : U32) : (push iv s).badcfg = s.badcfg := rfl
@[simp] theorem push_cfgwe (iv : U32) : (push iv s).cfgwe = s.cfgwe := rfl
@[simp] theorem push_overrun (iv : U32) : (push iv s).overrun = s.overrun := rfl
@[simp] theorem push_t1 (iv : U32) : (push iv s).t1 = s.t1 := rfl
@[simp] theorem push_t2 (iv : U32) : (push iv s).t2 = s.t2 := rfl
@[simp] theorem push_trig (iv : U32) : (push iv s).trig = s.trig := rfl
@[simp] theorem push_rda (iv : U32) : (push iv s).rda = s.rda := rfl
@[simp] theorem push_rdb (iv : U32) : (push iv s).rdb = s.rdb := rfl
@[simp] theorem push_rdcnt (iv : U32) : (push iv s).rdcnt = s.rdcnt := rfl
@[simp] theorem push_trgcnt (iv : U32) : (push iv s).trgcnt = s.trgcnt := rfl
@[simp] theorem push_lastwc (iv : U32) : (push iv s).lastwc = s.lastwc := rfl
@[simp] theorem push_dec (iv : U32) : (push iv s).dec = s.dec := rfl
@[simp] theorem push_col (iv : U32) : (push iv s).col = s.col := rfl
@[simp] theorem push_anchor (iv : U32) : (push iv s).anchor = s.anchor := rfl
@[simp] theorem push_k (iv : U32) : (push iv s).k = s.k := rfl
@[simp] theorem push_outs (iv : U32) : (push iv s).outs = s.outs := rfl
@[simp] theorem push_refused (iv : U32) : (push iv s).refused = s.refused := rfl
@[simp] theorem push_reads (iv : U32) : (push iv s).reads = s.reads := rfl
@[simp] theorem push_labels (iv : U32) : (push iv s).labels = s.labels ++ [.push (field16 s.cursor) iv] := rfl
@[simp] theorem push_stim (iv : U32) : (push iv s).stim = s.stim := rfl

/-! ### trigchk -/

@[simp] theorem trigchk_cfg (iv : U32) : (trigchk iv s).cfg = s.cfg := rfl
@[simp] theorem trigchk_last (iv : U32) : (trigchk iv s).last = s.last := rfl
@[simp] theorem trigchk_chan (iv : U32) : (trigchk iv s).chan = s.chan := rfl
@[simp] theorem trigchk_ring (iv : U32) : (trigchk iv s).ring = s.ring := rfl
@[simp] theorem trigchk_cursor (iv : U32) : (trigchk iv s).cursor = s.cursor := rfl
@[simp] theorem trigchk_en (iv : U32) : (trigchk iv s).en = s.en := rfl
@[simp] theorem trigchk_badcfg (iv : U32) : (trigchk iv s).badcfg = s.badcfg := rfl
@[simp] theorem trigchk_cfgwe (iv : U32) : (trigchk iv s).cfgwe = s.cfgwe := rfl
@[simp] theorem trigchk_overrun (iv : U32) : (trigchk iv s).overrun = s.overrun := rfl
@[simp] theorem trigchk_t1 (iv : U32) : (trigchk iv s).t1 = s.t1 := rfl
@[simp] theorem trigchk_t2 (iv : U32) : (trigchk iv s).t2 = s.t2 := rfl
@[simp] theorem trigchk_trig (iv : U32) : (trigchk iv s).trig = s.trig := rfl
@[simp] theorem trigchk_rda (iv : U32) : (trigchk iv s).rda = s.rda := rfl
@[simp] theorem trigchk_rdb (iv : U32) : (trigchk iv s).rdb = s.rdb := rfl
@[simp] theorem trigchk_rdcnt (iv : U32) : (trigchk iv s).rdcnt = s.rdcnt := rfl
@[simp] theorem trigchk_trgcnt (iv : U32) : (trigchk iv s).trgcnt = if fires iv s.trig then s.trgcnt + 1 else s.trgcnt := rfl
@[simp] theorem trigchk_lastwc (iv : U32) : (trigchk iv s).lastwc = s.lastwc := rfl
@[simp] theorem trigchk_dec (iv : U32) : (trigchk iv s).dec = s.dec := rfl
@[simp] theorem trigchk_col (iv : U32) : (trigchk iv s).col = s.col := rfl
@[simp] theorem trigchk_anchor (iv : U32) : (trigchk iv s).anchor = if fires iv s.trig then anchorFor s.cursor s.cfg else s.anchor := rfl
@[simp] theorem trigchk_k (iv : U32) : (trigchk iv s).k = s.k := rfl
@[simp] theorem trigchk_outs (iv : U32) : (trigchk iv s).outs = s.outs := rfl
@[simp] theorem trigchk_refused (iv : U32) : (trigchk iv s).refused = s.refused := rfl
@[simp] theorem trigchk_reads (iv : U32) : (trigchk iv s).reads = s.reads := rfl
@[simp] theorem trigchk_stim (iv : U32) : (trigchk iv s).stim = s.stim := rfl

/-! ### winrd -/

@[simp] theorem winrd_cfg (i : Nat) : (winrd i s).cfg = s.cfg := rfl
@[simp] theorem winrd_last (i : Nat) : (winrd i s).last = s.last := rfl
@[simp] theorem winrd_chan (i : Nat) : (winrd i s).chan = s.chan := rfl
@[simp] theorem winrd_ring (i : Nat) : (winrd i s).ring = s.ring := rfl
@[simp] theorem winrd_cursor (i : Nat) : (winrd i s).cursor = s.cursor := rfl
@[simp] theorem winrd_en (i : Nat) : (winrd i s).en = s.en := rfl
@[simp] theorem winrd_badcfg (i : Nat) : (winrd i s).badcfg = s.badcfg := rfl
@[simp] theorem winrd_cfgwe (i : Nat) : (winrd i s).cfgwe = s.cfgwe := rfl
@[simp] theorem winrd_overrun (i : Nat) : (winrd i s).overrun = s.overrun := rfl
@[simp] theorem winrd_t1 (i : Nat) : (winrd i s).t1 = s.t1 := rfl
@[simp] theorem winrd_t2 (i : Nat) : (winrd i s).t2 = s.t2 := rfl
@[simp] theorem winrd_trig (i : Nat) : (winrd i s).trig = s.trig := rfl
@[simp] theorem winrd_rda (i : Nat) : (winrd i s).rda = s.rda := rfl
@[simp] theorem winrd_rdb (i : Nat) : (winrd i s).rdb = s.rdb := rfl
@[simp] theorem winrd_rdcnt (i : Nat) : (winrd i s).rdcnt = s.rdcnt := rfl
@[simp] theorem winrd_trgcnt (i : Nat) : (winrd i s).trgcnt = s.trgcnt := rfl
@[simp] theorem winrd_lastwc (i : Nat) : (winrd i s).lastwc = s.lastwc := rfl
@[simp] theorem winrd_dec (i : Nat) : (winrd i s).dec = s.dec := rfl
@[simp] theorem winrd_col (i : Nat) : (winrd i s).col = s.col := rfl
@[simp] theorem winrd_anchor (i : Nat) : (winrd i s).anchor = s.anchor := rfl
@[simp] theorem winrd_k (i : Nat) : (winrd i s).k = i % s.cfg.n := rfl
@[simp] theorem winrd_outs (i : Nat) : (winrd i s).outs = s.outs := rfl
@[simp] theorem winrd_refused (i : Nat) : (winrd i s).refused = s.refused := rfl
@[simp] theorem winrd_reads (i : Nat) : (winrd i s).reads = s.reads := rfl
@[simp] theorem winrd_labels (i : Nat) : (winrd i s).labels = s.labels ++ [.winrd (field16 i) (windowSample i s)] := rfl
@[simp] theorem winrd_stim (i : Nat) : (winrd i s).stim = s.stim := rfl

/-! ### classifyOp -/

@[simp] theorem classifyOp_cfg (x : U32) : (classifyOp x s).cfg = s.cfg := rfl
@[simp] theorem classifyOp_last (x : U32) : (classifyOp x s).last = s.last := rfl
@[simp] theorem classifyOp_chan (x : U32) : (classifyOp x s).chan = s.chan := rfl
@[simp] theorem classifyOp_ring (x : U32) : (classifyOp x s).ring = s.ring := rfl
@[simp] theorem classifyOp_cursor (x : U32) : (classifyOp x s).cursor = s.cursor := rfl
@[simp] theorem classifyOp_en (x : U32) : (classifyOp x s).en = s.en := rfl
@[simp] theorem classifyOp_badcfg (x : U32) : (classifyOp x s).badcfg = s.badcfg := rfl
@[simp] theorem classifyOp_cfgwe (x : U32) : (classifyOp x s).cfgwe = s.cfgwe := rfl
@[simp] theorem classifyOp_overrun (x : U32) : (classifyOp x s).overrun = s.overrun := rfl
@[simp] theorem classifyOp_t1 (x : U32) : (classifyOp x s).t1 = s.t1 := rfl
@[simp] theorem classifyOp_t2 (x : U32) : (classifyOp x s).t2 = s.t2 := rfl
@[simp] theorem classifyOp_trig (x : U32) : (classifyOp x s).trig = s.trig := rfl
@[simp] theorem classifyOp_rda (x : U32) : (classifyOp x s).rda = s.rda := rfl
@[simp] theorem classifyOp_rdb (x : U32) : (classifyOp x s).rdb = s.rdb := rfl
@[simp] theorem classifyOp_rdcnt (x : U32) : (classifyOp x s).rdcnt = s.rdcnt := rfl
@[simp] theorem classifyOp_trgcnt (x : U32) : (classifyOp x s).trgcnt = s.trgcnt := rfl
@[simp] theorem classifyOp_lastwc (x : U32) : (classifyOp x s).lastwc = s.lastwc := rfl
@[simp] theorem classifyOp_dec (x : U32) : (classifyOp x s).dec = s.dec := rfl
@[simp] theorem classifyOp_col (x : U32) : (classifyOp x s).col = s.col := rfl
@[simp] theorem classifyOp_anchor (x : U32) : (classifyOp x s).anchor = s.anchor := rfl
@[simp] theorem classifyOp_k (x : U32) : (classifyOp x s).k = s.k := rfl
@[simp] theorem classifyOp_outs (x : U32) : (classifyOp x s).outs = s.outs := rfl
@[simp] theorem classifyOp_refused (x : U32) : (classifyOp x s).refused = s.refused := rfl
@[simp] theorem classifyOp_reads (x : U32) : (classifyOp x s).reads = s.reads := rfl
@[simp] theorem classifyOp_labels (x : U32) : (classifyOp x s).labels = s.labels ++ [.classify (classify s.t1 s.t2 x) x] := rfl
@[simp] theorem classifyOp_stim (x : U32) : (classifyOp x s).stim = s.stim := rfl

/-! ### decinit -/

@[simp] theorem decinit_cfg (a : U16) : (decinit a s).cfg = s.cfg := rfl
@[simp] theorem decinit_last (a : U16) : (decinit a s).last = s.last := rfl
@[simp] theorem decinit_chan (a : U16) : (decinit a s).chan = s.chan := rfl
@[simp] theorem decinit_ring (a : U16) : (decinit a s).ring = s.ring := rfl
@[simp] theorem decinit_cursor (a : U16) : (decinit a s).cursor = s.cursor := rfl
@[simp] theorem decinit_en (a : U16) : (decinit a s).en = s.en := rfl
@[simp] theorem decinit_badcfg (a : U16) : (decinit a s).badcfg = s.badcfg := rfl
@[simp] theorem decinit_cfgwe (a : U16) : (decinit a s).cfgwe = s.cfgwe := rfl
@[simp] theorem decinit_overrun (a : U16) : (decinit a s).overrun = s.overrun := rfl
@[simp] theorem decinit_t1 (a : U16) : (decinit a s).t1 = s.t1 := rfl
@[simp] theorem decinit_t2 (a : U16) : (decinit a s).t2 = s.t2 := rfl
@[simp] theorem decinit_trig (a : U16) : (decinit a s).trig = s.trig := rfl
@[simp] theorem decinit_rda (a : U16) : (decinit a s).rda = s.rda := rfl
@[simp] theorem decinit_rdb (a : U16) : (decinit a s).rdb = s.rdb := rfl
@[simp] theorem decinit_rdcnt (a : U16) : (decinit a s).rdcnt = s.rdcnt := rfl
@[simp] theorem decinit_trgcnt (a : U16) : (decinit a s).trgcnt = s.trgcnt := rfl
@[simp] theorem decinit_lastwc (a : U16) : (decinit a s).lastwc = s.lastwc := rfl
@[simp] theorem decinit_dec (a : U16) : (decinit a s).dec = s.dec.fresh := rfl
@[simp] theorem decinit_col (a : U16) : (decinit a s).col = s.col := rfl
@[simp] theorem decinit_anchor (a : U16) : (decinit a s).anchor = s.anchor := rfl
@[simp] theorem decinit_k (a : U16) : (decinit a s).k = s.k := rfl
@[simp] theorem decinit_outs (a : U16) : (decinit a s).outs = s.outs := rfl
@[simp] theorem decinit_refused (a : U16) : (decinit a s).refused = s.refused := rfl
@[simp] theorem decinit_reads (a : U16) : (decinit a s).reads = s.reads := rfl
@[simp] theorem decinit_labels (a : U16) : (decinit a s).labels = s.labels ++ [.decinit a] := rfl
@[simp] theorem decinit_stim (a : U16) : (decinit a s).stim = s.stim := rfl

/-! ### pairstep -/

@[simp] theorem pairstep_cfg (sym : Sym) : (pairstep sym s).cfg = s.cfg := rfl
@[simp] theorem pairstep_last (sym : Sym) : (pairstep sym s).last = s.last := rfl
@[simp] theorem pairstep_chan (sym : Sym) : (pairstep sym s).chan = s.chan := rfl
@[simp] theorem pairstep_ring (sym : Sym) : (pairstep sym s).ring = s.ring := rfl
@[simp] theorem pairstep_cursor (sym : Sym) : (pairstep sym s).cursor = s.cursor := rfl
@[simp] theorem pairstep_en (sym : Sym) : (pairstep sym s).en = s.en := rfl
@[simp] theorem pairstep_badcfg (sym : Sym) : (pairstep sym s).badcfg = s.badcfg := rfl
@[simp] theorem pairstep_cfgwe (sym : Sym) : (pairstep sym s).cfgwe = s.cfgwe := rfl
@[simp] theorem pairstep_overrun (sym : Sym) : (pairstep sym s).overrun = (s.overrun || (pairResult sym s.dec).ov) := rfl
@[simp] theorem pairstep_t1 (sym : Sym) : (pairstep sym s).t1 = s.t1 := rfl
@[simp] theorem pairstep_t2 (sym : Sym) : (pairstep sym s).t2 = s.t2 := rfl
@[simp] theorem pairstep_trig (sym : Sym) : (pairstep sym s).trig = s.trig := rfl
@[simp] theorem pairstep_rda (sym : Sym) : (pairstep sym s).rda = s.rda := rfl
@[simp] theorem pairstep_rdb (sym : Sym) : (pairstep sym s).rdb = s.rdb := rfl
@[simp] theorem pairstep_rdcnt (sym : Sym) : (pairstep sym s).rdcnt = s.rdcnt := rfl
@[simp] theorem pairstep_trgcnt (sym : Sym) : (pairstep sym s).trgcnt = s.trgcnt := rfl
@[simp] theorem pairstep_lastwc (sym : Sym) : (pairstep sym s).lastwc = s.lastwc := rfl
@[simp] theorem pairstep_dec (sym : Sym) : (pairstep sym s).dec = s.dec.afterPair sym := rfl
@[simp] theorem pairstep_col (sym : Sym) : (pairstep sym s).col = s.col := rfl
@[simp] theorem pairstep_anchor (sym : Sym) : (pairstep sym s).anchor = s.anchor := rfl
@[simp] theorem pairstep_k (sym : Sym) : (pairstep sym s).k = s.k := rfl
@[simp] theorem pairstep_outs (sym : Sym) : (pairstep sym s).outs = s.outs := rfl
@[simp] theorem pairstep_refused (sym : Sym) : (pairstep sym s).refused = s.refused := rfl
@[simp] theorem pairstep_reads (sym : Sym) : (pairstep sym s).reads = s.reads := rfl
@[simp] theorem pairstep_stim (sym : Sym) : (pairstep sym s).stim = s.stim := rfl

/-! ### emitchk -/

@[simp] theorem emitchk_cfg : (emitchk s).cfg = s.cfg := rfl
@[simp] theorem emitchk_last : (emitchk s).last = s.last := rfl
@[simp] theorem emitchk_chan : (emitchk s).chan = s.chan := rfl
@[simp] theorem emitchk_ring : (emitchk s).ring = s.ring := rfl
@[simp] theorem emitchk_cursor : (emitchk s).cursor = s.cursor := rfl
@[simp] theorem emitchk_en : (emitchk s).en = s.en := rfl
@[simp] theorem emitchk_badcfg : (emitchk s).badcfg = s.badcfg := rfl
@[simp] theorem emitchk_cfgwe : (emitchk s).cfgwe = s.cfgwe := rfl
@[simp] theorem emitchk_overrun : (emitchk s).overrun = s.overrun := rfl
@[simp] theorem emitchk_t1 : (emitchk s).t1 = s.t1 := rfl
@[simp] theorem emitchk_t2 : (emitchk s).t2 = s.t2 := rfl
@[simp] theorem emitchk_trig : (emitchk s).trig = s.trig := rfl
@[simp] theorem emitchk_rda : (emitchk s).rda = s.rda := rfl
@[simp] theorem emitchk_rdb : (emitchk s).rdb = s.rdb := rfl
@[simp] theorem emitchk_rdcnt : (emitchk s).rdcnt = s.rdcnt := rfl
@[simp] theorem emitchk_trgcnt : (emitchk s).trgcnt = s.trgcnt := rfl
@[simp] theorem emitchk_lastwc : (emitchk s).lastwc = s.lastwc := rfl
@[simp] theorem emitchk_dec : (emitchk s).dec = s.dec.afterEmitchk s.cfg := rfl
@[simp] theorem emitchk_col : (emitchk s).col = s.col := rfl
@[simp] theorem emitchk_anchor : (emitchk s).anchor = s.anchor := rfl
@[simp] theorem emitchk_k : (emitchk s).k = s.k := rfl
@[simp] theorem emitchk_outs : (emitchk s).outs = s.outs := rfl
@[simp] theorem emitchk_refused : (emitchk s).refused = s.refused := rfl
@[simp] theorem emitchk_reads : (emitchk s).reads = s.reads := rfl
@[simp] theorem emitchk_stim : (emitchk s).stim = s.stim := rfl

/-! ### extract -/

@[simp] theorem extract_cfg : (extract s).cfg = s.cfg := rfl
@[simp] theorem extract_last : (extract s).last = s.last := rfl
@[simp] theorem extract_chan : (extract s).chan = s.chan := rfl
@[simp] theorem extract_ring : (extract s).ring = s.ring := rfl
@[simp] theorem extract_cursor : (extract s).cursor = s.cursor := rfl
@[simp] theorem extract_en : (extract s).en = s.en := rfl
@[simp] theorem extract_badcfg : (extract s).badcfg = s.badcfg := rfl
@[simp] theorem extract_cfgwe : (extract s).cfgwe = s.cfgwe := rfl
@[simp] theorem extract_overrun : (extract s).overrun = s.overrun := rfl
@[simp] theorem extract_t1 : (extract s).t1 = s.t1 := rfl
@[simp] theorem extract_t2 : (extract s).t2 = s.t2 := rfl
@[simp] theorem extract_trig : (extract s).trig = s.trig := rfl
@[simp] theorem extract_rda : (extract s).rda = s.rda := rfl
@[simp] theorem extract_rdb : (extract s).rdb = s.rdb := rfl
@[simp] theorem extract_rdcnt : (extract s).rdcnt = s.rdcnt := rfl
@[simp] theorem extract_trgcnt : (extract s).trgcnt = s.trgcnt := rfl
@[simp] theorem extract_lastwc : (extract s).lastwc = s.lastwc := rfl
@[simp] theorem extract_dec : (extract s).dec = s.dec := rfl
@[simp] theorem extract_col : (extract s).col = collectAll (emittedWords s.dec) := rfl
@[simp] theorem extract_anchor : (extract s).anchor = s.anchor := rfl
@[simp] theorem extract_k : (extract s).k = s.k := rfl
@[simp] theorem extract_outs : (extract s).outs = s.outs := rfl
@[simp] theorem extract_refused : (extract s).refused = s.refused := rfl
@[simp] theorem extract_reads : (extract s).reads = s.reads := rfl
@[simp] theorem extract_stim : (extract s).stim = s.stim := rfl

/-! ### output -/

@[simp] theorem output_cfg (a b : U64) : (output a b s).cfg = s.cfg := rfl
@[simp] theorem output_last (a b : U64) : (output a b s).last = s.last := rfl
@[simp] theorem output_chan (a b : U64) : (output a b s).chan = s.chan := rfl
@[simp] theorem output_ring (a b : U64) : (output a b s).ring = s.ring := rfl
@[simp] theorem output_cursor (a b : U64) : (output a b s).cursor = s.cursor := rfl
@[simp] theorem output_en (a b : U64) : (output a b s).en = s.en := rfl
@[simp] theorem output_badcfg (a b : U64) : (output a b s).badcfg = s.badcfg := rfl
@[simp] theorem output_cfgwe (a b : U64) : (output a b s).cfgwe = s.cfgwe := rfl
@[simp] theorem output_overrun (a b : U64) : (output a b s).overrun = s.overrun := rfl
@[simp] theorem output_t1 (a b : U64) : (output a b s).t1 = s.t1 := rfl
@[simp] theorem output_t2 (a b : U64) : (output a b s).t2 = s.t2 := rfl
@[simp] theorem output_trig (a b : U64) : (output a b s).trig = s.trig := rfl
@[simp] theorem output_rda (a b : U64) : (output a b s).rda = a := rfl
@[simp] theorem output_rdb (a b : U64) : (output a b s).rdb = b := rfl
@[simp] theorem output_rdcnt (a b : U64) : (output a b s).rdcnt = s.rdcnt + 1 := rfl
@[simp] theorem output_trgcnt (a b : U64) : (output a b s).trgcnt = s.trgcnt := rfl
@[simp] theorem output_lastwc (a b : U64) : (output a b s).lastwc = s.lastwc := rfl
@[simp] theorem output_dec (a b : U64) : (output a b s).dec = s.dec := rfl
@[simp] theorem output_col (a b : U64) : (output a b s).col = s.col := rfl
@[simp] theorem output_anchor (a b : U64) : (output a b s).anchor = s.anchor := rfl
@[simp] theorem output_k (a b : U64) : (output a b s).k = s.k := rfl
@[simp] theorem output_outs (a b : U64) : (output a b s).outs = s.outs ++ [(a, b)] := rfl
@[simp] theorem output_refused (a b : U64) : (output a b s).refused = s.refused := rfl
@[simp] theorem output_reads (a b : U64) : (output a b s).reads = s.reads := rfl
@[simp] theorem output_labels (a b : U64) : (output a b s).labels = s.labels ++ [.output a b] := rfl
@[simp] theorem output_stim (a b : U64) : (output a b s).stim = s.stim := rfl

/-! ### latchWordCount -/

@[simp] theorem latchWordCount_cfg : (latchWordCount s).cfg = s.cfg := rfl
@[simp] theorem latchWordCount_last : (latchWordCount s).last = s.last := rfl
@[simp] theorem latchWordCount_chan : (latchWordCount s).chan = s.chan := rfl
@[simp] theorem latchWordCount_ring : (latchWordCount s).ring = s.ring := rfl
@[simp] theorem latchWordCount_cursor : (latchWordCount s).cursor = s.cursor := rfl
@[simp] theorem latchWordCount_en : (latchWordCount s).en = s.en := rfl
@[simp] theorem latchWordCount_badcfg : (latchWordCount s).badcfg = s.badcfg := rfl
@[simp] theorem latchWordCount_cfgwe : (latchWordCount s).cfgwe = s.cfgwe := rfl
@[simp] theorem latchWordCount_overrun : (latchWordCount s).overrun = s.overrun := rfl
@[simp] theorem latchWordCount_t1 : (latchWordCount s).t1 = s.t1 := rfl
@[simp] theorem latchWordCount_t2 : (latchWordCount s).t2 = s.t2 := rfl
@[simp] theorem latchWordCount_trig : (latchWordCount s).trig = s.trig := rfl
@[simp] theorem latchWordCount_rda : (latchWordCount s).rda = s.rda := rfl
@[simp] theorem latchWordCount_rdb : (latchWordCount s).rdb = s.rdb := rfl
@[simp] theorem latchWordCount_rdcnt : (latchWordCount s).rdcnt = s.rdcnt := rfl
@[simp] theorem latchWordCount_trgcnt : (latchWordCount s).trgcnt = s.trgcnt := rfl
@[simp] theorem latchWordCount_lastwc : (latchWordCount s).lastwc = field16 s.dec.wc := rfl
@[simp] theorem latchWordCount_dec : (latchWordCount s).dec = s.dec := rfl
@[simp] theorem latchWordCount_col : (latchWordCount s).col = s.col := rfl
@[simp] theorem latchWordCount_anchor : (latchWordCount s).anchor = s.anchor := rfl
@[simp] theorem latchWordCount_k : (latchWordCount s).k = s.k := rfl
@[simp] theorem latchWordCount_outs : (latchWordCount s).outs = s.outs := rfl
@[simp] theorem latchWordCount_refused : (latchWordCount s).refused = s.refused := rfl
@[simp] theorem latchWordCount_reads : (latchWordCount s).reads = s.reads := rfl
@[simp] theorem latchWordCount_labels : (latchWordCount s).labels = s.labels := rfl
@[simp] theorem latchWordCount_stim : (latchWordCount s).stim = s.stim := rfl

/-! ### statusWrite -/

@[simp] theorem statusWrite_cfg (d : U32) : (statusWrite d s).cfg = s.cfg := rfl
@[simp] theorem statusWrite_last (d : U32) : (statusWrite d s).last = s.last := rfl
@[simp] theorem statusWrite_chan (d : U32) : (statusWrite d s).chan = s.chan := rfl
@[simp] theorem statusWrite_ring (d : U32) : (statusWrite d s).ring = s.ring := rfl
@[simp] theorem statusWrite_cursor (d : U32) : (statusWrite d s).cursor = s.cursor := rfl
@[simp] theorem statusWrite_en (d : U32) : (statusWrite d s).en = s.en := rfl
@[simp] theorem statusWrite_badcfg (d : U32) : (statusWrite d s).badcfg = writeOneToClear s.badcfg (d.getLsbD 0) := rfl
@[simp] theorem statusWrite_cfgwe (d : U32) : (statusWrite d s).cfgwe = writeOneToClear s.cfgwe (d.getLsbD 1) := rfl
@[simp] theorem statusWrite_overrun (d : U32) : (statusWrite d s).overrun = writeOneToClear s.overrun (d.getLsbD 2) := rfl
@[simp] theorem statusWrite_t1 (d : U32) : (statusWrite d s).t1 = s.t1 := rfl
@[simp] theorem statusWrite_t2 (d : U32) : (statusWrite d s).t2 = s.t2 := rfl
@[simp] theorem statusWrite_trig (d : U32) : (statusWrite d s).trig = s.trig := rfl
@[simp] theorem statusWrite_rda (d : U32) : (statusWrite d s).rda = s.rda := rfl
@[simp] theorem statusWrite_rdb (d : U32) : (statusWrite d s).rdb = s.rdb := rfl
@[simp] theorem statusWrite_rdcnt (d : U32) : (statusWrite d s).rdcnt = s.rdcnt := rfl
@[simp] theorem statusWrite_trgcnt (d : U32) : (statusWrite d s).trgcnt = s.trgcnt := rfl
@[simp] theorem statusWrite_lastwc (d : U32) : (statusWrite d s).lastwc = s.lastwc := rfl
@[simp] theorem statusWrite_dec (d : U32) : (statusWrite d s).dec = s.dec := rfl
@[simp] theorem statusWrite_col (d : U32) : (statusWrite d s).col = s.col := rfl
@[simp] theorem statusWrite_anchor (d : U32) : (statusWrite d s).anchor = s.anchor := rfl
@[simp] theorem statusWrite_k (d : U32) : (statusWrite d s).k = s.k := rfl
@[simp] theorem statusWrite_outs (d : U32) : (statusWrite d s).outs = s.outs := rfl
@[simp] theorem statusWrite_refused (d : U32) : (statusWrite d s).refused = s.refused := rfl
@[simp] theorem statusWrite_reads (d : U32) : (statusWrite d s).reads = s.reads := rfl
@[simp] theorem statusWrite_labels (d : U32) : (statusWrite d s).labels = s.labels := rfl
@[simp] theorem statusWrite_stim (d : U32) : (statusWrite d s).stim = s.stim := rfl

/-! ### resetBlock -/

@[simp] theorem resetBlock_cfg : (resetBlock s).cfg = s.cfg := rfl
@[simp] theorem resetBlock_last : (resetBlock s).last = s.cfg.last0 := rfl
@[simp] theorem resetBlock_chan : (resetBlock s).chan = [] := rfl
@[simp] theorem resetBlock_ring : (resetBlock s).ring = s.cfg.initialRing := rfl
@[simp] theorem resetBlock_cursor : (resetBlock s).cursor = 0 := rfl
@[simp] theorem resetBlock_en : (resetBlock s).en = false := rfl
@[simp] theorem resetBlock_badcfg : (resetBlock s).badcfg = false := rfl
@[simp] theorem resetBlock_cfgwe : (resetBlock s).cfgwe = false := rfl
@[simp] theorem resetBlock_overrun : (resetBlock s).overrun = false := rfl
@[simp] theorem resetBlock_t1 : (resetBlock s).t1 = 0 := rfl
@[simp] theorem resetBlock_t2 : (resetBlock s).t2 = 0 := rfl
@[simp] theorem resetBlock_trig : (resetBlock s).trig = 0 := rfl
@[simp] theorem resetBlock_rda : (resetBlock s).rda = 0 := rfl
@[simp] theorem resetBlock_rdb : (resetBlock s).rdb = 0 := rfl
@[simp] theorem resetBlock_rdcnt : (resetBlock s).rdcnt = 0 := rfl
@[simp] theorem resetBlock_trgcnt : (resetBlock s).trgcnt = 0 := rfl
@[simp] theorem resetBlock_lastwc : (resetBlock s).lastwc = 0 := rfl
@[simp] theorem resetBlock_dec : (resetBlock s).dec = s.dec := rfl
@[simp] theorem resetBlock_col : (resetBlock s).col = s.col := rfl
@[simp] theorem resetBlock_anchor : (resetBlock s).anchor = s.anchor := rfl
@[simp] theorem resetBlock_k : (resetBlock s).k = s.k := rfl
@[simp] theorem resetBlock_outs : (resetBlock s).outs = s.outs := rfl
@[simp] theorem resetBlock_refused : (resetBlock s).refused = s.refused := rfl
@[simp] theorem resetBlock_reads : (resetBlock s).reads = s.reads := rfl
@[simp] theorem resetBlock_labels : (resetBlock s).labels = s.labels := rfl
@[simp] theorem resetBlock_stim : (resetBlock s).stim = s.stim := rfl

/-! ### The labels with several result fields -/

@[simp] theorem trigchk_labels (iv : U32) : (trigchk iv s).labels = s.labels ++
    [.trigchk (fires iv s.trig) (if fires iv s.trig then field16 (anchorFor s.cursor s.cfg) else 0) iv] := rfl
@[simp] theorem pairstep_labels (sym : Sym) : (pairstep sym s).labels = s.labels ++
    [.pairstep sym s.dec.prev s.dec.bitpos (pairResult sym s.dec).closed (pairResult sym s.dec).bitset
      (pairResult sym s.dec).ov] := rfl
@[simp] theorem emitchk_labels : (emitchk s).labels = s.labels ++
    [.emitchk (emits s.cfg s.dec) (if emits s.cfg s.dec then field16 s.dec.wc else 0)
      (if emits s.cfg s.dec then s.dec.acc else 0)] := rfl
@[simp] theorem extract_labels : (extract s).labels = s.labels ++
    [.extract (BitVec.ofNat 2 (collectAll (emittedWords s.dec)).n) (field16 s.dec.wc)] := rfl

/-! ### The decoder's updates -/

variable (d : Decoder)

@[simp] theorem fresh_acc : d.fresh.acc = 0 := rfl
@[simp] theorem fresh_bitpos : d.fresh.bitpos = 63 := rfl
@[simp] theorem fresh_prev : d.fresh.prev = .none := rfl
@[simp] theorem fresh_words : d.fresh.words = d.words := rfl
@[simp] theorem fresh_wc : d.fresh.wc = 0 := rfl
@[simp] theorem fresh_closed : d.fresh.closed = d.closed := rfl
@[simp] theorem fresh_bitposBefore : d.fresh.bitposBefore = d.bitposBefore := rfl
@[simp] theorem afterPair_acc (sym : Sym) : (d.afterPair sym).acc = (pairResult sym d).acc := rfl
@[simp] theorem afterPair_bitpos (sym : Sym) : (d.afterPair sym).bitpos = (pairResult sym d).bitpos := rfl
@[simp] theorem afterPair_prev (sym : Sym) : (d.afterPair sym).prev = (pairResult sym d).prev := rfl
@[simp] theorem afterPair_words (sym : Sym) : (d.afterPair sym).words = d.words := rfl
@[simp] theorem afterPair_wc (sym : Sym) : (d.afterPair sym).wc = d.wc := rfl
@[simp] theorem afterPair_closed (sym : Sym) : (d.afterPair sym).closed = (pairResult sym d).closed := rfl
@[simp] theorem afterPair_bitposBefore (sym : Sym) : (d.afterPair sym).bitposBefore = d.bitpos := rfl
@[simp] theorem emit_acc : d.emit.acc = d.acc := rfl
@[simp] theorem emit_bitpos : d.emit.bitpos = 0 := rfl
@[simp] theorem emit_prev : d.emit.prev = d.prev := rfl
@[simp] theorem emit_words : d.emit.words = d.words.set d.wc d.acc := rfl
@[simp] theorem emit_wc : d.emit.wc = d.wc + 1 := rfl
@[simp] theorem emit_closed : d.emit.closed = d.closed := rfl
@[simp] theorem emit_bitposBefore : d.emit.bitposBefore = d.bitposBefore := rfl

end Sys2Proof.Machine
end

