-- ==== Sys2Proof/Laws/Ops.lean ====
section
/-! SUPPORT. One lemma per shared operation that says what it does, for the proofs to cite instead of unfolding it, and
the storage form Memory.wf: every operation keeps it, and a run's start state has it. -/

namespace Sys2Proof.Machine

/-! ### The channel -/

theorem chanAccepts_iff (s : State) : chanAccepts s = true ↔ s.chan.length < s.cfg.c := by simp [chanAccepts]

theorem chanPush_of_room {s : State} (v : U32) (h : s.chan.length < s.cfg.c) : chanPush v s = s.chan ++ [v] := by
  simp [chanPush, chanAccepts, h]

theorem chanPush_of_full {s : State} (v : U32) (h : s.cfg.c ≤ s.chan.length) : chanPush v s = s.chan := by
  simp [chanPush, chanAccepts, Nat.not_lt.mpr h]

theorem chanPush_length_le {s : State} (v : U32) (h : s.chan.length ≤ s.cfg.c) :
    (chanPush v s).length ≤ s.cfg.c := by
  by_cases hr : s.chan.length < s.cfg.c
  · rw [chanPush_of_room v hr]; simpa using hr
  · rw [chanPush_of_full v (Nat.le_of_not_lt hr)]; exact h

/-! ### The ring -/

theorem ringWrite_of_lt {s : State} {i : Nat} (v : U32) (h : i < s.cfg.n) : ringWrite i v s = s.ring.set i v := by
  simp [ringWrite, Nat.mod_eq_of_lt h]

@[simp] theorem ringWrite_length (i : Nat) (v : U32) (s : State) : (ringWrite i v s).length = s.ring.length := by
  simp [ringWrite]

theorem advance_lt (i : Nat) {c : Config} (h : 0 < c.n) : advance i c < c.n := Nat.mod_lt _ h

theorem advance_of_lt {i : Nat} {c : Config} (h : i < c.n) : advance i c = if i + 1 = c.n then 0 else i + 1 := by
  unfold advance
  split
  · simp_all
  · exact Nat.mod_eq_of_lt (by omega)

theorem anchorFor_lt {i : Nat} {c : Config} (h : i < c.n) : anchorFor i c < c.n := by
  unfold anchorFor
  split
  · exact h
  · exact Nat.mod_lt _ (by omega)

/-- A ring of N samples has the slot every read names. -/
theorem ringRead_eq {s : State} (i : Nat) (hl : s.ring.length = s.cfg.n) (hn : 0 < s.cfg.n) :
    s.ring[i % s.cfg.n]? = some (ringRead i s) := by
  have h : i % s.cfg.n < s.ring.length := by rw [hl]; exact Nat.mod_lt _ hn
  simp [ringRead, List.getD, List.getElem?_eq_getElem h]

/-! ### Comparisons -/

theorem fires_iff (iv trig : U32) : fires iv trig = true ↔ trig < iv := by simp [fires]

theorem classify_high {t1 t2 x : U32} (h : t2 < x) : classify t1 t2 x = .high := by simp [classify, h]

theorem classify_mid {t1 t2 x : U32} (h2 : ¬ t2 < x) (h1 : t1 < x) : classify t1 t2 x = .mid := by
  simp [classify, h2, h1]

theorem classify_low {t1 t2 x : U32} (h2 : ¬ t2 < x) (h1 : ¬ t1 < x) : classify t1 t2 x = .low := by
  simp [classify, h2, h1]

theorem classify_eq_high_iff (t1 t2 x : U32) : classify t1 t2 x = .high ↔ t2 < x := by
  unfold classify
  split
  · simp [*]
  · split <;> simp [*]

/-! ### The pairing state machine -/

@[simp] theorem pairResult_high (d : Decoder) : pairResult .high d =
    { acc := 0, bitpos := 63, prev := .none, closed := false, bitset := false, ov := false } := rfl

theorem pairResult_pending {sym : Sym} {d : Decoder} (hs : sym ≠ .high) (hp : d.prev = .none) : pairResult sym d =
    { acc := d.acc, bitpos := d.bitpos, prev := pendingOf sym, closed := false, bitset := false, ov := false } := by
  cases sym <;> simp_all [pairResult, pendingOf]

theorem pairResult_closing {sym : Sym} {d : Decoder} (hs : sym ≠ .high) (hp : d.prev ≠ .none) :
    pairResult sym d = closePair (decide (d.prev = .mid ∧ sym = .low)) d := by
  cases sym <;> cases h : d.prev <;> simp_all [pairResult]

theorem closePair_exhausted {one : Bool} {d : Decoder} (h : d.bitpos = -1) : closePair one d =
    { acc := d.acc, bitpos := -1, prev := .none, closed := true, bitset := false, ov := true } := by
  simp [closePair, h]

theorem closePair_open {one : Bool} {d : Decoder} (h : d.bitpos ≠ -1) : closePair one d =
    { acc := if one then setBit d.acc d.bitpos else d.acc, bitpos := d.bitpos - 1, prev := .none, closed := true,
      bitset := one, ov := false } := by
  rw [closePair, if_neg h]

/-! ### Emission -/

theorem emits_iff (c : Config) (d : Decoder) : emits c d = true ↔
    (d.bitpos = 0 ∧ d.acc ≠ 0 ∧ d.wc < c.w ∧ (c.emitMode = .onDecrement → d.closed = true ∧ d.bitposBefore = 1)) := by
  unfold emits emitCond
  cases c.emitMode <;> simp [and_assoc]

theorem afterEmitchk_of_emits {c : Config} {d : Decoder} (h : emits c d = true) : d.afterEmitchk c = d.emit := by
  simp [Decoder.afterEmitchk, h]

theorem afterEmitchk_of_not {c : Config} {d : Decoder} (h : emits c d = false) : d.afterEmitchk c = d := by
  simp [Decoder.afterEmitchk, h]

/-- The whole effect of EMITCHK on the decoder: emission or nothing. -/
theorem afterEmitchk_cases (c : Config) (d : Decoder) :
    (emits c d = true ∧ d.afterEmitchk c = d.emit) ∨ (emits c d = false ∧ d.afterEmitchk c = d) := by
  cases h : emits c d
  · exact .inr ⟨rfl, afterEmitchk_of_not h⟩
  · exact .inl ⟨rfl, afterEmitchk_of_emits h⟩

/-! ### Register offsets -/

theorem aligned_iff (off : U8) : aligned off = true ↔ off.toNat % 4 = 0 := by revert off; decide

@[simp] theorem ofOffset_offset (r : HostReg) : HostReg.ofOffset r.offset = some r := by cases r <;> decide

theorem offset_of_ofOffset {off : U8} {r : HostReg} (h : HostReg.ofOffset off = some r) : r.offset = off := by
  simpa using List.find?_some h

/-! ### The storage form -/

section
variable {s : State}

theorem Memory.wf_record (l : Instr) (h : Memory.wf s) : Memory.wf (record l s) := h
theorem Memory.wf_recordRead (off : U8) (v : U32) (h : Memory.wf s) : Memory.wf (recordRead off v s) := h
theorem Memory.wf_markRefused (h : Memory.wf s) : Memory.wf (markRefused s) := h
theorem Memory.wf_trigchk (iv : U32) (h : Memory.wf s) : Memory.wf (trigchk iv s) := h
theorem Memory.wf_winrd (i : Nat) (h : Memory.wf s) : Memory.wf (winrd i s) := h
theorem Memory.wf_classifyOp (x : U32) (h : Memory.wf s) : Memory.wf (classifyOp x s) := h
theorem Memory.wf_pairstep (sym : Sym) (h : Memory.wf s) : Memory.wf (pairstep sym s) := h
theorem Memory.wf_extract (h : Memory.wf s) : Memory.wf (extract s) := h
theorem Memory.wf_output (a b : U64) (h : Memory.wf s) : Memory.wf (output a b s) := h
theorem Memory.wf_latchWordCount (h : Memory.wf s) : Memory.wf (latchWordCount s) := h
theorem Memory.wf_statusWrite (d : U32) (h : Memory.wf s) : Memory.wf (statusWrite d s) := h

theorem Memory.wf_chsend (iv : U32) (h : Memory.wf s) : Memory.wf (chsend iv s) :=
  ⟨h.1, h.2.1, chanPush_length_le iv h.2.2.1, h.2.2.2⟩

theorem Memory.wf_captureEdge (now : U32) (h : Memory.wf s) : Memory.wf (captureEdge now s) :=
  ⟨h.1, h.2.1, chanPush_length_le (now - s.last) h.2.2.1, h.2.2.2⟩

theorem Memory.wf_chrecv (h : Memory.wf s) : Memory.wf (chrecv s) :=
  ⟨h.1, h.2.1, by simpa using Nat.le_trans (Nat.sub_le _ 1) h.2.2.1, h.2.2.2⟩

theorem Memory.wf_push (iv : U32) (h : Memory.wf s) : Memory.wf (push iv s) :=
  ⟨by simpa using h.1, advance_lt s.cursor (Nat.zero_lt_of_lt h.2.1), h.2.2⟩

theorem Memory.wf_decinit (a : U16) (h : Memory.wf s) : Memory.wf (decinit a s) :=
  ⟨h.1, h.2.1, h.2.2.1, h.2.2.2.1, Nat.zero_le _⟩

theorem Memory.wf_emitchk (h : Memory.wf s) : Memory.wf (emitchk s) := by
  obtain ⟨he, hd⟩ | ⟨_, hd⟩ := afterEmitchk_cases s.cfg s.dec
  · have hw := ((emits_iff _ _).1 he).2.2.1
    simpa [Memory.wf, hd] using ⟨h.1, h.2.1, h.2.2.1, h.2.2.2.1, hw⟩
  · simpa [Memory.wf, hd] using h

theorem Memory.wf_ctrlWrite (d : U32) (h : Memory.wf s) : Memory.wf (ctrlWrite d s) := by
  unfold ctrlWrite
  repeat' split
  all_goals exact h

theorem Memory.wf_regWrite (r : Option HostReg) (d : U32) (h : Memory.wf s) : Memory.wf (regWrite r d s) := by
  unfold regWrite
  split <;> first | exact wf_ctrlWrite d h | exact h | (unfold lockedWrite; split <;> exact h)

theorem Memory.wf_decodeSample (i : Nat) (h : Memory.wf s) : Memory.wf (decodeSample s i) :=
  wf_emitchk (wf_pairstep _ (wf_classifyOp _ (wf_winrd i h)))

theorem Memory.wf_foldl_decodeSample (ks : List Nat) (h : Memory.wf s) : Memory.wf (ks.foldl decodeSample s) := by
  induction ks generalizing s with
  | nil => exact h
  | cons i ks ih => exact ih (wf_decodeSample i h)

theorem Memory.wf_decodeWindow (h : Memory.wf s) : Memory.wf (decodeWindow s) :=
  wf_foldl_decodeSample _ (wf_decinit _ h)

theorem Memory.wf_runTrigger (h : Memory.wf s) : Memory.wf (runTrigger s) := by
  have he := wf_extract (wf_latchWordCount (wf_decodeWindow h))
  unfold runTrigger outputReading
  split
  · exact wf_output _ _ he
  · exact he

theorem Memory.wf_receivePush (h : Memory.wf s) : Memory.wf (receivePush s) :=
  wf_trigchk _ (wf_push _ (wf_chrecv h))

theorem Memory.wf_consumerStep (h : Memory.wf s) : Memory.wf (consumerStep s) := by
  unfold consumerStep
  split
  · exact wf_runTrigger (wf_receivePush h)
  · exact wf_receivePush h

@[simp] theorem initialRing_length (c : Config) : c.initialRing.length = c.n := by simp [Config.initialRing]

theorem Memory.wf_resetBlock (h : Memory.wf s) : Memory.wf (resetBlock s) :=
  ⟨initialRing_length s.cfg, Nat.zero_lt_of_lt h.2.1, Nat.zero_le _, h.2.2.2⟩

/-- A run's start state has the storage form. -/
theorem Memory.wf_init {c : Config} (h : c.wf = true) : Memory.wf (State.init c) := by
  have hn : 0 < c.n := by
    simp [Config.wf] at h
    omega
  exact ⟨initialRing_length c, hn, Nat.zero_le _, by simp [State.init], Nat.zero_le _⟩

/-- State.reset has the storage form. -/
theorem Memory.wf_reset : Memory.wf State.reset := wf_init (by decide)

end

/-- Every operation that answers a next state keeps the storage form. -/
theorem exec_keeps_storage {i : Instr} {s t : State} (h : Memory.wf s) (he : exec i s = .next t) : Memory.wf t := by
  cases i <;> simp only [exec] at he
  case edge now =>
    simp only [execEdge, Host.Outcome.next.injEq] at he
    subst he
    split
    · exact Memory.wf_captureEdge now h
    · exact h
  case cstep =>
    simp only [execCstep] at he
    split at he
    · cases he; exact Memory.wf_consumerStep h
    · cases he
  case regwr off data =>
    simp only [execRegwr, refuse] at he
    split at he
    · cases he; exact Memory.wf_regWrite _ data h
    · cases he
  case regrd off =>
    simp only [execRegrd, refuse] at he
    split at he
    · cases he; exact h
    · cases he
  case reset => cases he; exact Memory.wf_resetBlock h
  case chsend acc iv => cases he; exact Memory.wf_chsend iv h
  case chrecv iv =>
    simp only [execChrecv] at he
    split at he
    · cases he
    · cases he; exact Memory.wf_chrecv h
  case push slot iv => cases he; exact Memory.wf_push iv h
  case trigchk f a iv => cases he; exact h
  case winrd i x => cases he; exact h
  case classify y x => cases he; exact h
  case decinit a => cases he; exact Memory.wf_decinit a h
  case pairstep sym p bp c b o => cases he; exact Memory.wf_pairstep sym h
  case emitchk e sl v => cases he; exact Memory.wf_emitchk h
  case extract n wc => cases he; exact h
  case output a b => cases he; exact h

end Sys2Proof.Machine
end

