-- ==== Sys2Proof/Laws/Consumer.lean ====
section
/-! SUPPORT. What DECODE, a fired trigger and a consumer step do (43_decoder.md R145, 45_sequencer_host.md R186): the
fields each leaves alone, DECODE as a pure fold over the window's samples, and one inversion lemma per meaning that can
stop. Later proofs cite these and unfold no loop. -/

namespace Sys2Proof.Machine

variable (s : State)

/-! ### What DECODE leaves alone: all but the decoder, the window index, OVERRUN and the labels -/

@[simp] theorem decodeSample_cfg (i : Nat) : (decodeSample s i).cfg = s.cfg := by simp only [decodeSample, emitchk_cfg, pairstep_cfg, classifyOp_cfg, winrd_cfg]
@[simp] theorem decodeSample_last (i : Nat) : (decodeSample s i).last = s.last := by simp only [decodeSample, emitchk_last, pairstep_last, classifyOp_last, winrd_last]
@[simp] theorem decodeSample_chan (i : Nat) : (decodeSample s i).chan = s.chan := by simp only [decodeSample, emitchk_chan, pairstep_chan, classifyOp_chan, winrd_chan]
@[simp] theorem decodeSample_ring (i : Nat) : (decodeSample s i).ring = s.ring := by simp only [decodeSample, emitchk_ring, pairstep_ring, classifyOp_ring, winrd_ring]
@[simp] theorem decodeSample_cursor (i : Nat) : (decodeSample s i).cursor = s.cursor := by simp only [decodeSample, emitchk_cursor, pairstep_cursor, classifyOp_cursor, winrd_cursor]
@[simp] theorem decodeSample_en (i : Nat) : (decodeSample s i).en = s.en := by simp only [decodeSample, emitchk_en, pairstep_en, classifyOp_en, winrd_en]
@[simp] theorem decodeSample_badcfg (i : Nat) : (decodeSample s i).badcfg = s.badcfg := by simp only [decodeSample, emitchk_badcfg, pairstep_badcfg, classifyOp_badcfg, winrd_badcfg]
@[simp] theorem decodeSample_cfgwe (i : Nat) : (decodeSample s i).cfgwe = s.cfgwe := by simp only [decodeSample, emitchk_cfgwe, pairstep_cfgwe, classifyOp_cfgwe, winrd_cfgwe]
@[simp] theorem decodeSample_t1 (i : Nat) : (decodeSample s i).t1 = s.t1 := by simp only [decodeSample, emitchk_t1, pairstep_t1, classifyOp_t1, winrd_t1]
@[simp] theorem decodeSample_t2 (i : Nat) : (decodeSample s i).t2 = s.t2 := by simp only [decodeSample, emitchk_t2, pairstep_t2, classifyOp_t2, winrd_t2]
@[simp] theorem decodeSample_trig (i : Nat) : (decodeSample s i).trig = s.trig := by simp only [decodeSample, emitchk_trig, pairstep_trig, classifyOp_trig, winrd_trig]
@[simp] theorem decodeSample_rda (i : Nat) : (decodeSample s i).rda = s.rda := by simp only [decodeSample, emitchk_rda, pairstep_rda, classifyOp_rda, winrd_rda]
@[simp] theorem decodeSample_rdb (i : Nat) : (decodeSample s i).rdb = s.rdb := by simp only [decodeSample, emitchk_rdb, pairstep_rdb, classifyOp_rdb, winrd_rdb]
@[simp] theorem decodeSample_rdcnt (i : Nat) : (decodeSample s i).rdcnt = s.rdcnt := by simp only [decodeSample, emitchk_rdcnt, pairstep_rdcnt, classifyOp_rdcnt, winrd_rdcnt]
@[simp] theorem decodeSample_trgcnt (i : Nat) : (decodeSample s i).trgcnt = s.trgcnt := by simp only [decodeSample, emitchk_trgcnt, pairstep_trgcnt, classifyOp_trgcnt, winrd_trgcnt]
@[simp] theorem decodeSample_lastwc (i : Nat) : (decodeSample s i).lastwc = s.lastwc := by simp only [decodeSample, emitchk_lastwc, pairstep_lastwc, classifyOp_lastwc, winrd_lastwc]
@[simp] theorem decodeSample_col (i : Nat) : (decodeSample s i).col = s.col := by simp only [decodeSample, emitchk_col, pairstep_col, classifyOp_col, winrd_col]
@[simp] theorem decodeSample_anchor (i : Nat) : (decodeSample s i).anchor = s.anchor := by simp only [decodeSample, emitchk_anchor, pairstep_anchor, classifyOp_anchor, winrd_anchor]
@[simp] theorem decodeSample_outs (i : Nat) : (decodeSample s i).outs = s.outs := by simp only [decodeSample, emitchk_outs, pairstep_outs, classifyOp_outs, winrd_outs]
@[simp] theorem decodeSample_refused (i : Nat) : (decodeSample s i).refused = s.refused := by simp only [decodeSample, emitchk_refused, pairstep_refused, classifyOp_refused, winrd_refused]
@[simp] theorem decodeSample_reads (i : Nat) : (decodeSample s i).reads = s.reads := by simp only [decodeSample, emitchk_reads, pairstep_reads, classifyOp_reads, winrd_reads]
@[simp] theorem decodeSample_stim (i : Nat) : (decodeSample s i).stim = s.stim := by simp only [decodeSample, emitchk_stim, pairstep_stim, classifyOp_stim, winrd_stim]

@[simp] theorem foldl_decodeSample_cfg (ks : List Nat) : (ks.foldl decodeSample s).cfg = s.cfg := by
  induction ks generalizing s with
  | nil => rfl
  | cons i ks ih => rw [List.foldl_cons, ih, decodeSample_cfg]
@[simp] theorem foldl_decodeSample_last (ks : List Nat) : (ks.foldl decodeSample s).last = s.last := by
  induction ks generalizing s with
  | nil => rfl
  | cons i ks ih => rw [List.foldl_cons, ih, decodeSample_last]
@[simp] theorem foldl_decodeSample_chan (ks : List Nat) : (ks.foldl decodeSample s).chan = s.chan := by
  induction ks generalizing s with
  | nil => rfl
  | cons i ks ih => rw [List.foldl_cons, ih, decodeSample_chan]
@[simp] theorem foldl_decodeSample_ring (ks : List Nat) : (ks.foldl decodeSample s).ring = s.ring := by
  induction ks generalizing s with
  | nil => rfl
  | cons i ks ih => rw [List.foldl_cons, ih, decodeSample_ring]
@[simp] theorem foldl_decodeSample_cursor (ks : List Nat) : (ks.foldl decodeSample s).cursor = s.cursor := by
  induction ks generalizing s with
  | nil => rfl
  | cons i ks ih => rw [List.foldl_cons, ih, decodeSample_cursor]
@[simp] theorem foldl_decodeSample_en (ks : List Nat) : (ks.foldl decodeSample s).en = s.en := by
  induction ks generalizing s with
  | nil => rfl
  | cons i ks ih => rw [List.foldl_cons, ih, decodeSample_en]
@[simp] theorem foldl_decodeSample_badcfg (ks : List Nat) : (ks.foldl decodeSample s).badcfg = s.badcfg := by
  induction ks generalizing s with
  | nil => rfl
  | cons i ks ih => rw [List.foldl_cons, ih, decodeSample_badcfg]
@[simp] theorem foldl_decodeSample_cfgwe (ks : List Nat) : (ks.foldl decodeSample s).cfgwe = s.cfgwe := by
  induction ks generalizing s with
  | nil => rfl
  | cons i ks ih => rw [List.foldl_cons, ih, decodeSample_cfgwe]
@[simp] theorem foldl_decodeSample_t1 (ks : List Nat) : (ks.foldl decodeSample s).t1 = s.t1 := by
  induction ks generalizing s with
  | nil => rfl
  | cons i ks ih => rw [List.foldl_cons, ih, decodeSample_t1]
@[simp] theorem foldl_decodeSample_t2 (ks : List Nat) : (ks.foldl decodeSample s).t2 = s.t2 := by
  induction ks generalizing s with
  | nil => rfl
  | cons i ks ih => rw [List.foldl_cons, ih, decodeSample_t2]
@[simp] theorem foldl_decodeSample_trig (ks : List Nat) : (ks.foldl decodeSample s).trig = s.trig := by
  induction ks generalizing s with
  | nil => rfl
  | cons i ks ih => rw [List.foldl_cons, ih, decodeSample_trig]
@[simp] theorem foldl_decodeSample_rda (ks : List Nat) : (ks.foldl decodeSample s).rda = s.rda := by
  induction ks generalizing s with
  | nil => rfl
  | cons i ks ih => rw [List.foldl_cons, ih, decodeSample_rda]
@[simp] theorem foldl_decodeSample_rdb (ks : List Nat) : (ks.foldl decodeSample s).rdb = s.rdb := by
  induction ks generalizing s with
  | nil => rfl
  | cons i ks ih => rw [List.foldl_cons, ih, decodeSample_rdb]
@[simp] theorem foldl_decodeSample_rdcnt (ks : List Nat) : (ks.foldl decodeSample s).rdcnt = s.rdcnt := by
  induction ks generalizing s with
  | nil => rfl
  | cons i ks ih => rw [List.foldl_cons, ih, decodeSample_rdcnt]
@[simp] theorem foldl_decodeSample_trgcnt (ks : List Nat) : (ks.foldl decodeSample s).trgcnt = s.trgcnt := by
  induction ks generalizing s with
  | nil => rfl
  | cons i ks ih => rw [List.foldl_cons, ih, decodeSample_trgcnt]
@[simp] theorem foldl_decodeSample_lastwc (ks : List Nat) : (ks.foldl decodeSample s).lastwc = s.lastwc := by
  induction ks generalizing s with
  | nil => rfl
  | cons i ks ih => rw [List.foldl_cons, ih, decodeSample_lastwc]
@[simp] theorem foldl_decodeSample_col (ks : List Nat) : (ks.foldl decodeSample s).col = s.col := by
  induction ks generalizing s with
  | nil => rfl
  | cons i ks ih => rw [List.foldl_cons, ih, decodeSample_col]
@[simp] theorem foldl_decodeSample_anchor (ks : List Nat) : (ks.foldl decodeSample s).anchor = s.anchor := by
  induction ks generalizing s with
  | nil => rfl
  | cons i ks ih => rw [List.foldl_cons, ih, decodeSample_anchor]
@[simp] theorem foldl_decodeSample_outs (ks : List Nat) : (ks.foldl decodeSample s).outs = s.outs := by
  induction ks generalizing s with
  | nil => rfl
  | cons i ks ih => rw [List.foldl_cons, ih, decodeSample_outs]
@[simp] theorem foldl_decodeSample_refused (ks : List Nat) : (ks.foldl decodeSample s).refused = s.refused := by
  induction ks generalizing s with
  | nil => rfl
  | cons i ks ih => rw [List.foldl_cons, ih, decodeSample_refused]
@[simp] theorem foldl_decodeSample_reads (ks : List Nat) : (ks.foldl decodeSample s).reads = s.reads := by
  induction ks generalizing s with
  | nil => rfl
  | cons i ks ih => rw [List.foldl_cons, ih, decodeSample_reads]
@[simp] theorem foldl_decodeSample_stim (ks : List Nat) : (ks.foldl decodeSample s).stim = s.stim := by
  induction ks generalizing s with
  | nil => rfl
  | cons i ks ih => rw [List.foldl_cons, ih, decodeSample_stim]

@[simp] theorem decodeWindow_cfg : (decodeWindow s).cfg = s.cfg := by simp [decodeWindow]
@[simp] theorem decodeWindow_last : (decodeWindow s).last = s.last := by simp [decodeWindow]
@[simp] theorem decodeWindow_chan : (decodeWindow s).chan = s.chan := by simp [decodeWindow]
@[simp] theorem decodeWindow_ring : (decodeWindow s).ring = s.ring := by simp [decodeWindow]
@[simp] theorem decodeWindow_cursor : (decodeWindow s).cursor = s.cursor := by simp [decodeWindow]
@[simp] theorem decodeWindow_en : (decodeWindow s).en = s.en := by simp [decodeWindow]
@[simp] theorem decodeWindow_badcfg : (decodeWindow s).badcfg = s.badcfg := by simp [decodeWindow]
@[simp] theorem decodeWindow_cfgwe : (decodeWindow s).cfgwe = s.cfgwe := by simp [decodeWindow]
@[simp] theorem decodeWindow_t1 : (decodeWindow s).t1 = s.t1 := by simp [decodeWindow]
@[simp] theorem decodeWindow_t2 : (decodeWindow s).t2 = s.t2 := by simp [decodeWindow]
@[simp] theorem decodeWindow_trig : (decodeWindow s).trig = s.trig := by simp [decodeWindow]
@[simp] theorem decodeWindow_rda : (decodeWindow s).rda = s.rda := by simp [decodeWindow]
@[simp] theorem decodeWindow_rdb : (decodeWindow s).rdb = s.rdb := by simp [decodeWindow]
@[simp] theorem decodeWindow_rdcnt : (decodeWindow s).rdcnt = s.rdcnt := by simp [decodeWindow]
@[simp] theorem decodeWindow_trgcnt : (decodeWindow s).trgcnt = s.trgcnt := by simp [decodeWindow]
@[simp] theorem decodeWindow_lastwc : (decodeWindow s).lastwc = s.lastwc := by simp [decodeWindow]
@[simp] theorem decodeWindow_col : (decodeWindow s).col = s.col := by simp [decodeWindow]
@[simp] theorem decodeWindow_anchor : (decodeWindow s).anchor = s.anchor := by simp [decodeWindow]
@[simp] theorem decodeWindow_outs : (decodeWindow s).outs = s.outs := by simp [decodeWindow]
@[simp] theorem decodeWindow_refused : (decodeWindow s).refused = s.refused := by simp [decodeWindow]
@[simp] theorem decodeWindow_reads : (decodeWindow s).reads = s.reads := by simp [decodeWindow]
@[simp] theorem decodeWindow_stim : (decodeWindow s).stim = s.stim := by simp [decodeWindow]

/-! ### What a fired trigger leaves alone -/

@[simp] theorem outputReading_cfg : (outputReading s).cfg = s.cfg := by unfold outputReading; split <;> rfl
@[simp] theorem outputReading_last : (outputReading s).last = s.last := by unfold outputReading; split <;> rfl
@[simp] theorem outputReading_chan : (outputReading s).chan = s.chan := by unfold outputReading; split <;> rfl
@[simp] theorem outputReading_ring : (outputReading s).ring = s.ring := by unfold outputReading; split <;> rfl
@[simp] theorem outputReading_cursor : (outputReading s).cursor = s.cursor := by unfold outputReading; split <;> rfl
@[simp] theorem outputReading_en : (outputReading s).en = s.en := by unfold outputReading; split <;> rfl
@[simp] theorem outputReading_badcfg : (outputReading s).badcfg = s.badcfg := by unfold outputReading; split <;> rfl
@[simp] theorem outputReading_cfgwe : (outputReading s).cfgwe = s.cfgwe := by unfold outputReading; split <;> rfl
@[simp] theorem outputReading_t1 : (outputReading s).t1 = s.t1 := by unfold outputReading; split <;> rfl
@[simp] theorem outputReading_t2 : (outputReading s).t2 = s.t2 := by unfold outputReading; split <;> rfl
@[simp] theorem outputReading_trig : (outputReading s).trig = s.trig := by unfold outputReading; split <;> rfl
@[simp] theorem outputReading_trgcnt : (outputReading s).trgcnt = s.trgcnt := by unfold outputReading; split <;> rfl
@[simp] theorem outputReading_anchor : (outputReading s).anchor = s.anchor := by unfold outputReading; split <;> rfl
@[simp] theorem outputReading_refused : (outputReading s).refused = s.refused := by unfold outputReading; split <;> rfl
@[simp] theorem outputReading_reads : (outputReading s).reads = s.reads := by unfold outputReading; split <;> rfl
@[simp] theorem outputReading_stim : (outputReading s).stim = s.stim := by unfold outputReading; split <;> rfl
@[simp] theorem outputReading_dec : (outputReading s).dec = s.dec := by unfold outputReading; split <;> rfl
@[simp] theorem outputReading_col : (outputReading s).col = s.col := by unfold outputReading; split <;> rfl
@[simp] theorem outputReading_overrun : (outputReading s).overrun = s.overrun := by unfold outputReading; split <;> rfl
@[simp] theorem outputReading_k : (outputReading s).k = s.k := by unfold outputReading; split <;> rfl
@[simp] theorem outputReading_lastwc : (outputReading s).lastwc = s.lastwc := by unfold outputReading; split <;> rfl

@[simp] theorem runTrigger_cfg : (runTrigger s).cfg = s.cfg := by simp [runTrigger]
@[simp] theorem runTrigger_last : (runTrigger s).last = s.last := by simp [runTrigger]
@[simp] theorem runTrigger_chan : (runTrigger s).chan = s.chan := by simp [runTrigger]
@[simp] theorem runTrigger_ring : (runTrigger s).ring = s.ring := by simp [runTrigger]
@[simp] theorem runTrigger_cursor : (runTrigger s).cursor = s.cursor := by simp [runTrigger]
@[simp] theorem runTrigger_en : (runTrigger s).en = s.en := by simp [runTrigger]
@[simp] theorem runTrigger_badcfg : (runTrigger s).badcfg = s.badcfg := by simp [runTrigger]
@[simp] theorem runTrigger_cfgwe : (runTrigger s).cfgwe = s.cfgwe := by simp [runTrigger]
@[simp] theorem runTrigger_t1 : (runTrigger s).t1 = s.t1 := by simp [runTrigger]
@[simp] theorem runTrigger_t2 : (runTrigger s).t2 = s.t2 := by simp [runTrigger]
@[simp] theorem runTrigger_trig : (runTrigger s).trig = s.trig := by simp [runTrigger]
@[simp] theorem runTrigger_trgcnt : (runTrigger s).trgcnt = s.trgcnt := by simp [runTrigger]
@[simp] theorem runTrigger_anchor : (runTrigger s).anchor = s.anchor := by simp [runTrigger]
@[simp] theorem runTrigger_refused : (runTrigger s).refused = s.refused := by simp [runTrigger]
@[simp] theorem runTrigger_reads : (runTrigger s).reads = s.reads := by simp [runTrigger]
@[simp] theorem runTrigger_stim : (runTrigger s).stim = s.stim := by simp [runTrigger]
@[simp] theorem runTrigger_dec : (runTrigger s).dec = (decodeWindow s).dec := by simp [runTrigger]
@[simp] theorem runTrigger_overrun : (runTrigger s).overrun = (decodeWindow s).overrun := by simp [runTrigger]
@[simp] theorem runTrigger_lastwc : (runTrigger s).lastwc = field16 (decodeWindow s).dec.wc := by simp [runTrigger]
@[simp] theorem runTrigger_col : (runTrigger s).col = collectAll (emittedWords (decodeWindow s).dec) := by simp [runTrigger]
@[simp] theorem runTrigger_k : (runTrigger s).k = (decodeWindow s).k := by simp [runTrigger]

/-! ### What a consumer step does to the fields no decode touches -/

@[simp] theorem receivePush_cfg : (receivePush s).cfg = s.cfg := rfl
@[simp] theorem consumerStep_cfg : (consumerStep s).cfg = s.cfg := by unfold consumerStep; split <;> simp
@[simp] theorem receivePush_last : (receivePush s).last = s.last := rfl
@[simp] theorem consumerStep_last : (consumerStep s).last = s.last := by unfold consumerStep; split <;> simp
@[simp] theorem receivePush_en : (receivePush s).en = s.en := rfl
@[simp] theorem consumerStep_en : (consumerStep s).en = s.en := by unfold consumerStep; split <;> simp
@[simp] theorem receivePush_badcfg : (receivePush s).badcfg = s.badcfg := rfl
@[simp] theorem consumerStep_badcfg : (consumerStep s).badcfg = s.badcfg := by unfold consumerStep; split <;> simp
@[simp] theorem receivePush_cfgwe : (receivePush s).cfgwe = s.cfgwe := rfl
@[simp] theorem consumerStep_cfgwe : (consumerStep s).cfgwe = s.cfgwe := by unfold consumerStep; split <;> simp
@[simp] theorem receivePush_t1 : (receivePush s).t1 = s.t1 := rfl
@[simp] theorem consumerStep_t1 : (consumerStep s).t1 = s.t1 := by unfold consumerStep; split <;> simp
@[simp] theorem receivePush_t2 : (receivePush s).t2 = s.t2 := rfl
@[simp] theorem consumerStep_t2 : (consumerStep s).t2 = s.t2 := by unfold consumerStep; split <;> simp
@[simp] theorem receivePush_trig : (receivePush s).trig = s.trig := rfl
@[simp] theorem consumerStep_trig : (consumerStep s).trig = s.trig := by unfold consumerStep; split <;> simp
@[simp] theorem receivePush_refused : (receivePush s).refused = s.refused := rfl
@[simp] theorem consumerStep_refused : (consumerStep s).refused = s.refused := by unfold consumerStep; split <;> simp
@[simp] theorem receivePush_reads : (receivePush s).reads = s.reads := rfl
@[simp] theorem consumerStep_reads : (consumerStep s).reads = s.reads := by unfold consumerStep; split <;> simp
@[simp] theorem receivePush_stim : (receivePush s).stim = s.stim := rfl
@[simp] theorem consumerStep_stim : (consumerStep s).stim = s.stim := by unfold consumerStep; split <;> simp
@[simp] theorem receivePush_chan : (receivePush s).chan = s.chan.tail := rfl
@[simp] theorem consumerStep_chan : (consumerStep s).chan = s.chan.tail := by unfold consumerStep; split <;> simp
@[simp] theorem receivePush_ring : (receivePush s).ring = ringWrite s.cursor (chanHead s) s := rfl
@[simp] theorem consumerStep_ring : (consumerStep s).ring = ringWrite s.cursor (chanHead s) s := by unfold consumerStep; split <;> simp
@[simp] theorem receivePush_cursor : (receivePush s).cursor = advance s.cursor s.cfg := rfl
@[simp] theorem consumerStep_cursor : (consumerStep s).cursor = advance s.cursor s.cfg := by unfold consumerStep; split <;> simp
@[simp] theorem receivePush_dec : (receivePush s).dec = s.dec := rfl
@[simp] theorem receivePush_col : (receivePush s).col = s.col := rfl
@[simp] theorem receivePush_k : (receivePush s).k = s.k := rfl
@[simp] theorem receivePush_outs : (receivePush s).outs = s.outs := rfl
@[simp] theorem receivePush_rda : (receivePush s).rda = s.rda := rfl
@[simp] theorem receivePush_rdb : (receivePush s).rdb = s.rdb := rfl
@[simp] theorem receivePush_rdcnt : (receivePush s).rdcnt = s.rdcnt := rfl
@[simp] theorem receivePush_lastwc : (receivePush s).lastwc = s.lastwc := rfl
@[simp] theorem receivePush_overrun : (receivePush s).overrun = s.overrun := rfl

/-- TRGCNT counts the interval received exactly when it exceeds TRIG (42_ring_trigger_window.md R124). -/
theorem consumerStep_trgcnt : (consumerStep s).trgcnt = if fires (chanHead s) s.trig then s.trgcnt + 1 else s.trgcnt := by
  unfold consumerStep
  split <;> simp [receivePush, *]

/-- A fired trigger hands out a reading or leaves the result registers and the history (44_extractor_output.md R175). -/
theorem outputReading_cases :
    (s.col.n = 2 ∧ outputReading s = output s.col.a s.col.b s) ∨ (s.col.n ≠ 2 ∧ outputReading s = s) := by
  unfold outputReading
  split
  · exact .inl ⟨‹_›, rfl⟩
  · exact .inr ⟨‹_›, rfl⟩

/-- A consumer step fires or does not (45_sequencer_host.md R186). -/
theorem consumerStep_cases :
    (fires (chanHead s) s.trig = true ∧ consumerStep s = runTrigger (receivePush s)) ∨
      (fires (chanHead s) s.trig = false ∧ consumerStep s = receivePush s) := by
  unfold consumerStep
  split
  · exact .inl ⟨‹_›, rfl⟩
  · exact .inr ⟨Bool.eq_false_iff.mpr ‹_›, rfl⟩

/-! ### DECODE as a fold over the samples -/

/-- PAIRSTEP and EMITCHK on one sample, on the decoder alone, with whether a pair closed past position 0. -/
def sampleStep (c : Config) (t1 t2 : U32) (d : Decoder × Bool) (x : U32) : Decoder × Bool :=
  ((d.1.afterPair (classify t1 t2 x)).afterEmitchk c, d.2 || (pairResult (classify t1 t2 x) d.1).ov)

@[simp] theorem decodeSample_dec (i : Nat) : (decodeSample s i).dec =
    (s.dec.afterPair (classify s.t1 s.t2 (windowSample i s))).afterEmitchk s.cfg := by
  simp only [decodeSample, emitchk_dec, pairstep_dec, pairstep_cfg, classifyOp_dec, classifyOp_cfg,
    winrd_dec, winrd_cfg]

@[simp] theorem decodeSample_overrun (i : Nat) : (decodeSample s i).overrun =
    (s.overrun || (pairResult (classify s.t1 s.t2 (windowSample i s)) s.dec).ov) := by
  simp only [decodeSample, emitchk_overrun, pairstep_overrun, classifyOp_dec, classifyOp_overrun, winrd_dec,
    winrd_overrun]

@[simp] theorem windowSample_decodeSample (i j : Nat) : windowSample j (decodeSample s i) = windowSample j s := by
  simp only [windowSample, ringRead, decodeSample_anchor, decodeSample_ring, decodeSample_cfg]

theorem foldl_decodeSample_pure (ks : List Nat) :
    ((ks.foldl decodeSample s).dec, (ks.foldl decodeSample s).overrun) =
      (ks.map (fun i => windowSample i s)).foldl (sampleStep s.cfg s.t1 s.t2) (s.dec, s.overrun) := by
  induction ks generalizing s with
  | nil => rfl
  | cons i ks ih =>
    rw [List.foldl_cons, ih]
    simp only [windowSample_decodeSample, decodeSample_cfg, decodeSample_t1, decodeSample_t2, decodeSample_dec,
      decodeSample_overrun, List.map_cons, List.foldl_cons, sampleStep]

/-- DECODE's decoder and OVERRUN are the fold of `sampleStep` over the window (43_decoder.md R145, R148). -/
theorem decodeWindow_pure : ((decodeWindow s).dec, (decodeWindow s).overrun) =
    (window s).foldl (sampleStep s.cfg s.t1 s.t2) (s.dec.fresh, s.overrun) :=
  foldl_decodeSample_pure (decinit (field16 s.anchor) s) (List.range s.cfg.n)

theorem window_length : (window s).length = s.cfg.n := by simp [window]

/-- The window is the ring read from the anchor on (42_ring_trigger_window.md R126). -/
theorem window_eq_rotate {s : State} (hl : s.ring.length = s.cfg.n) : window s = s.ring.rotate s.anchor := by
  apply List.ext_getElem
  · simp [window, hl]
  · intro i h1 h2
    have hn : i < s.cfg.n := by simpa [window] using h1
    have hb : (s.anchor + i) % s.cfg.n < s.ring.length := by rw [hl]; exact Nat.mod_lt _ (by omega)
    simp only [window, List.getElem_map, List.getElem_range, List.getElem_rotate, windowSample, ringRead, hl,
      Nat.add_comm i]
    rw [List.getD_eq_getElem _ _ hb]

/-- The window a fired trigger decodes (R122, R126). -/
theorem window_receivePush {s : State} {iv : U32} {rest : List U32} (hw : Memory.wf s) (h : Ready s iv rest)
    (hf : s.trig < iv) : window (receivePush s) = triggerWindow s iv := by
  have hh : chanHead s = iv := by simp [chanHead, h.2.2]
  have hf' : fires iv s.trig = true := (fires_iff _ _).2 hf
  rw [window_eq_rotate (Memory.wf_receivePush hw).1]
  simp only [triggerWindow, receivePush_ring, hh, ringWrite_of_lt iv hw.2.1]
  congr 1
  cases hm : s.cfg.anchorMode <;>
    simp only [receivePush, trigchk_anchor, hh, push_trig, chrecv_trig, hf', if_true, push_cursor, push_cfg, chrecv_cfg,
      chrecv_cursor, triggerAnchor, anchorFor, advance, hm]

/-- A CSTEP whose interval exceeds TRIG runs the trigger's work (45_sequencer_host.md R186). -/
theorem exec_cstep_of_fires {s : State} {iv : U32} {rest : List U32} (h : Ready s iv rest) (hf : s.trig < iv) :
    exec .cstep s = .next (runTrigger (receivePush s)) := by
  have he : consumerEnabled s = true := by simp [consumerEnabled, h.1, h.2.1, h.2.2]
  simp [exec, execCstep, he, consumerStep, chanHead, h.2.2, (fires_iff _ _).2 hf]

/-! ### Inversion of the meanings that can stop -/

variable {s} {t : State}

theorem execCstep_next : execCstep s = .next t ↔ consumerEnabled s = true ∧ t = consumerStep s := by
  by_cases h : consumerEnabled s = true
  · rw [execCstep, if_pos h]; exact ⟨fun e => by (cases e; exact ⟨h, rfl⟩), fun e => by rw [e.2]⟩
  · rw [execCstep, if_neg h]; exact ⟨fun e => by (cases e), fun e => absurd e.1 h⟩

theorem execRegwr_next {off : U8} {data : U32} :
    execRegwr off data s = .next t ↔ aligned off = true ∧ t = regWrite (HostReg.ofOffset off) data s := by
  by_cases h : aligned off = true
  · rw [execRegwr, if_pos h]; exact ⟨fun e => by (cases e; exact ⟨h, rfl⟩), fun e => by rw [e.2]⟩
  · rw [execRegwr, if_neg h]; exact ⟨fun e => by (cases e), fun e => absurd e.1 h⟩

theorem execRegrd_next {off : U8} : execRegrd off s = .next t ↔
    aligned off = true ∧ t = recordRead off (regRead (HostReg.ofOffset off) s) s := by
  by_cases h : aligned off = true
  · rw [execRegrd, if_pos h]; exact ⟨fun e => by (cases e; exact ⟨h, rfl⟩), fun e => by rw [e.2]⟩
  · rw [execRegrd, if_neg h]; exact ⟨fun e => by (cases e), fun e => absurd e.1 h⟩

theorem execChrecv_next : execChrecv s = .next t ↔ s.chan ≠ [] ∧ t = chrecv s := by
  by_cases h : s.chan.isEmpty = true
  · rw [execChrecv, if_pos h]
    exact ⟨fun e => by (cases e), fun e => absurd (List.isEmpty_iff.1 h) e.1⟩
  · rw [execChrecv, if_neg h]
    exact ⟨fun e => by (cases e; exact ⟨fun e' => h (List.isEmpty_iff.2 e'), rfl⟩), fun e => by rw [e.2]⟩

theorem execEdge_next {now : U32} : execEdge now s = .next t ↔ t = if s.en then captureEdge now s else s :=
  ⟨fun e => by (cases e; rfl), fun e => by (rw [e]; rfl)⟩

/-- All a host write can do: nothing, one field of the configuration, a flag, or EN (45_sequencer_host.md R190 to
R193). -/
theorem regWrite_cases (r : Option HostReg) (d : U32) (s : State) :
    regWrite r d s = s ∨
    (∃ b, r = some .ctrl ∧ regWrite r d s = { s with en := b } ∧ (b = true → s.t1 < s.t2)) ∨
    (r = some .ctrl ∧ s.en = false ∧ regWrite r d s = { s with badcfg := true }) ∨
    (r = some .status ∧ regWrite r d s = statusWrite d s) ∨
    (s.en = true ∧ regWrite r d s = { s with cfgwe := true }) ∨
    (s.en = false ∧ r = some .t1 ∧ regWrite r d s = { s with t1 := d }) ∨
    (s.en = false ∧ r = some .t2 ∧ regWrite r d s = { s with t2 := d }) ∨
    (s.en = false ∧ r = some .trig ∧ regWrite r d s = { s with trig := d }) := by
  rcases r with _ | r
  · exact .inl rfl
  · cases r
    case ctrl =>
      unfold regWrite ctrlWrite
      dsimp only
      split
      · exact .inr (.inl ⟨false, rfl, rfl, fun h => by (cases h)⟩)
      · split
        · exact .inl rfl
        · rename_i he
          split
          · rename_i ht
            exact .inr (.inl ⟨true, rfl, rfl, fun _ => by simpa [thresholdsOrdered] using ht⟩)
          · exact .inr (.inr (.inl ⟨rfl, by simpa using he, rfl⟩))
    case status => exact .inr (.inr (.inr (.inl ⟨rfl, rfl⟩)))
    all_goals
      first
      | exact .inl rfl
      | (simp only [regWrite, lockedWrite]
         by_cases he : s.en = true <;> simp [he])

end Sys2Proof.Machine
end

