-- ==== Sys2Proof/Laws/Words.lean ====
section
/-! SUPPORT. The fields of a word and of a label's A field: reading a field of a word built from fields gives the field
(30_encoding.md R71, R76). The decoder's and encoder's lemmas cite these. -/

namespace Sys2Proof

/-! ### OP, A and D -/

@[simp] theorem opOf_mkWord (op : U8) (a : U24) (d : U32) : opOf (mkWord op a d) = op := by
  apply BitVec.eq_of_getLsbD_eq
  intro i hi
  have h1 : ¬ 56 + i < 32 := by omega
  have h2 : ¬ 56 + i - 32 < 24 := by omega
  have h3 : 56 + i - 32 - 24 = i := by omega
  simp only [opOf, mkWord, BitVec.getLsbD_extractLsb', BitVec.getLsbD_append]
  simp [hi, h1, h2, h3]

@[simp] theorem auxOf_mkWord (op : U8) (a : U24) (d : U32) : auxOf (mkWord op a d) = a := by
  apply BitVec.eq_of_getLsbD_eq
  intro i hi
  have h1 : ¬ 32 + i < 32 := by omega
  have h2 : 32 + i - 32 = i := by omega
  simp only [auxOf, mkWord, BitVec.getLsbD_extractLsb', BitVec.getLsbD_append]
  simp [hi, h1, h2]

@[simp] theorem dataOf_mkWord (op : U8) (a : U24) (d : U32) : dataOf (mkWord op a d) = d := by
  apply BitVec.eq_of_getLsbD_eq
  intro i hi
  simp only [dataOf, mkWord, BitVec.getLsbD_extractLsb', BitVec.getLsbD_append]
  simp [hi]

/-- A word is made of its three fields. -/
theorem mkWord_fields (w : U64) : mkWord (opOf w) (auxOf w) (dataOf w) = w := by
  apply BitVec.eq_of_getLsbD_eq
  intro i hi
  simp only [opOf, auxOf, dataOf, mkWord, BitVec.getLsbD_extractLsb', BitVec.getLsbD_append]
  by_cases h1 : i < 32
  · simp [h1]
  · by_cases h2 : i - 32 < 24
    · have h3 : 32 + (i - 32) = i := by omega
      simp [h1, h2, h3]
    · have h3 : 56 + (i - 32 - 24) = i := by omega
      have h4 : i - 32 - 24 < 8 := by omega
      simp only [h1, h2, h3, h4, if_false, decide_true, Bool.true_and]

/-- Two words with the same fields are the same word. -/
theorem word_ext {v w : U64} (hop : opOf v = opOf w) (ha : auxOf v = auxOf w) (hd : dataOf v = dataOf w) : v = w := by
  rw [← mkWord_fields v, ← mkWord_fields w, hop, ha, hd]

/-! ### The opcode map -/

@[simp] theorem ofByte_byte (o : Opcode) : Opcode.ofByte o.byte = some o := by cases o <;> decide

theorem byte_of_ofByte {b : U8} {o : Opcode} (h : Opcode.ofByte b = some o) : o.byte = b := by
  simpa using List.find?_some h

theorem byte_injective {o p : Opcode} (h : o.byte = p.byte) : o = p := by
  simpa using congrArg Opcode.ofByte h

theorem ofByte_eq_none {b : U8} (h : Opcode.ofByte b = none) (o : Opcode) : o.byte ≠ b := by
  intro e
  rw [← e, ofByte_byte] at h
  cases h

/-! ### Value codes (R80) -/

@[simp] theorem symOfCode_code (s : Sym) : Sym.ofCode s.code = some s := by cases s <;> decide

@[simp] theorem prevOfCode_code (p : Prev) : Prev.ofCode p.code = some p := by cases p <;> decide

theorem code_of_symOfCode {c : BitVec 2} {s : Sym} (h : Sym.ofCode c = some s) : s.code = c := by
  revert h; revert s; revert c; decide

theorem code_of_prevOfCode {c : BitVec 2} {p : Prev} (h : Prev.ofCode c = some p) : p.code = c := by
  revert h; revert p; revert c; decide

theorem symOfCode_eq_none_iff (c : BitVec 2) : Sym.ofCode c = none ↔ c = 3#2 := by revert c; decide

theorem prevOfCode_eq_none_iff (c : BitVec 2) : Prev.ofCode c = none ↔ c = 3#2 := by revert c; decide

/-! ### The A field: one byte at the bottom (REGWR, REGRD) -/

@[simp] theorem aux8_zero (off : U8) : (0#16 ++ off : U24) &&& 0xFFFF00#24 = 0#24 := by
  apply BitVec.eq_of_getLsbD_eq
  intro i hi
  simp only [BitVec.getLsbD_and, BitVec.getLsbD_append]
  interval_cases i <;> simp

@[simp] theorem aux8_low (off : U8) : (0#16 ++ off : U24).extractLsb' 0 8 = off := by
  apply BitVec.eq_of_getLsbD_eq
  intro i hi
  simp only [BitVec.getLsbD_extractLsb', BitVec.getLsbD_append]
  simp [hi]

/-! ### The A field: one bit at the bottom (CHSEND) -/

@[simp] theorem aux1_zero (b : Bool) : (0#23 ++ BitVec.ofBool b : U24) &&& 0xFFFFFE#24 = 0#24 := by cases b <;> decide

@[simp] theorem aux1_low (b : Bool) : (0#23 ++ BitVec.ofBool b : U24).getLsbD 0 = b := by cases b <;> decide

/-! ### The A field: a 16-bit index at the bottom (PUSH, WINRD, DECINIT) -/

@[simp] theorem aux16_zero (i : U16) : (0#8 ++ i : U24) &&& 0xFF0000#24 = 0#24 := by
  apply BitVec.eq_of_getLsbD_eq
  intro j hj
  simp only [BitVec.getLsbD_and, BitVec.getLsbD_append]
  interval_cases j <;> simp

@[simp] theorem aux16_low (i : U16) : (0#8 ++ i : U24).extractLsb' 0 16 = i := by
  apply BitVec.eq_of_getLsbD_eq
  intro j hj
  simp only [BitVec.getLsbD_extractLsb', BitVec.getLsbD_append]
  simp [hj]

/-! ### The A field: a flag on top of a 16-bit index (TRIGCHK, EMITCHK) -/

@[simp] theorem auxFlag_zero (b : Bool) (i : U16) : (BitVec.ofBool b ++ 0#7 ++ i : U24) &&& 0x7F0000#24 = 0#24 := by
  apply BitVec.eq_of_getLsbD_eq
  intro j hj
  simp only [BitVec.getLsbD_and, BitVec.getLsbD_append]
  interval_cases j <;> simp

@[simp] theorem auxFlag_flag (b : Bool) (i : U16) : (BitVec.ofBool b ++ 0#7 ++ i : U24).getLsbD 23 = b := by
  simp only [BitVec.getLsbD_append]
  simp

@[simp] theorem auxFlag_index (b : Bool) (i : U16) : (BitVec.ofBool b ++ 0#7 ++ i : U24).extractLsb' 0 16 = i := by
  apply BitVec.eq_of_getLsbD_eq
  intro j hj
  simp only [BitVec.getLsbD_extractLsb', BitVec.getLsbD_append]
  simp [hj]

/-! ### The A field: a 2-bit code at the bottom (CLASSIFY) -/

@[simp] theorem aux2_zero (c : BitVec 2) : (0#22 ++ c : U24) &&& 0xFFFFFC#24 = 0#24 := by revert c; decide

@[simp] theorem aux2_low (c : BitVec 2) : (0#22 ++ c : U24).extractLsb' 0 2 = c := by revert c; decide

/-! ### The A field of PAIRSTEP -/

/-- The A field of PAIRSTEP from its six fields (R76). -/
abbrev pairAux (sym prev : BitVec 2) (bp : BitVec 7) (closed bitset ov : Bool) : U24 :=
  0#10 ++ BitVec.ofBool ov ++ BitVec.ofBool bitset ++ BitVec.ofBool closed ++ bp ++ prev ++ sym

section
variable (sym prev : BitVec 2) (bp : BitVec 7) (closed bitset ov : Bool)

@[simp] theorem pairAux_zero : pairAux sym prev bp closed bitset ov &&& 0xFFC000#24 = 0#24 := by
  apply BitVec.eq_of_getLsbD_eq
  intro j hj
  simp only [BitVec.getLsbD_and, BitVec.getLsbD_append]
  interval_cases j <;> simp

@[simp] theorem pairAux_sym : (pairAux sym prev bp closed bitset ov).extractLsb' 0 2 = sym := by
  apply BitVec.eq_of_getLsbD_eq
  intro j hj
  simp only [BitVec.getLsbD_extractLsb', BitVec.getLsbD_append]
  interval_cases j <;> simp

@[simp] theorem pairAux_prev : (pairAux sym prev bp closed bitset ov).extractLsb' 2 2 = prev := by
  apply BitVec.eq_of_getLsbD_eq
  intro j hj
  simp only [BitVec.getLsbD_extractLsb', BitVec.getLsbD_append]
  interval_cases j <;> simp

@[simp] theorem pairAux_bp : (pairAux sym prev bp closed bitset ov).extractLsb' 4 7 = bp := by
  apply BitVec.eq_of_getLsbD_eq
  intro j hj
  simp only [BitVec.getLsbD_extractLsb', BitVec.getLsbD_append]
  interval_cases j <;> simp

@[simp] theorem pairAux_closed : (pairAux sym prev bp closed bitset ov).getLsbD 11 = closed := by
  simp only [BitVec.getLsbD_append]
  simp

@[simp] theorem pairAux_bitset : (pairAux sym prev bp closed bitset ov).getLsbD 12 = bitset := by
  simp only [BitVec.getLsbD_append]
  simp

@[simp] theorem pairAux_ov : (pairAux sym prev bp closed bitset ov).getLsbD 13 = ov := by
  simp only [BitVec.getLsbD_append]
  simp

end

/-! ### The A field of EXTRACT -/

@[simp] theorem extractAux_zero (n : BitVec 2) (wc : U16) : (wc ++ 0#6 ++ n : U24) &&& 0x0000FC#24 = 0#24 := by
  apply BitVec.eq_of_getLsbD_eq
  intro j hj
  simp only [BitVec.getLsbD_and, BitVec.getLsbD_append]
  interval_cases j <;> simp

@[simp] theorem extractAux_count (n : BitVec 2) (wc : U16) : (wc ++ 0#6 ++ n : U24).extractLsb' 0 2 = n := by
  apply BitVec.eq_of_getLsbD_eq
  intro j hj
  simp only [BitVec.getLsbD_extractLsb', BitVec.getLsbD_append]
  simp [hj]

@[simp] theorem extractAux_words (n : BitVec 2) (wc : U16) : (wc ++ 0#6 ++ n : U24).extractLsb' 8 16 = wc := by
  apply BitVec.eq_of_getLsbD_eq
  intro j hj
  have h1 : ¬ 8 + j < 2 := by omega
  have h2 : ¬ 8 + j - 2 < 6 := by omega
  have h3 : 8 + j - 2 - 6 = j := by omega
  simp only [BitVec.getLsbD_extractLsb', BitVec.getLsbD_append]
  simp [hj, h1, h2, h3]

/-! ### The other direction: an A field whose must-be-zero bits are 0 is made of its fields -/

theorem bit_of_and_eq_zero {w : Nat} {x m : BitVec w} (h : x &&& m = 0#w) (i : Nat) (hm : m.getLsbD i = true) :
    x.getLsbD i = false := by
  simpa [hm] using congrArg (fun y => y.getLsbD i) h

theorem aux_eq_zero {a : U24} (h : a &&& 0xFFFFFF#24 = 0#24) : a = 0#24 := by
  rw [← h]
  exact (BitVec.and_allOnes (x := a)).symm

theorem data_eq_zero {d : U32} (h : d &&& 0xFFFFFFFF#32 = 0#32) : d = 0#32 := by
  rw [← h]
  exact (BitVec.and_allOnes (x := d)).symm

theorem aux8_fields {a : U24} (h : a &&& 0xFFFF00#24 = 0#24) : (0#16 ++ a.extractLsb' 0 8 : U24) = a := by
  apply BitVec.eq_of_getLsbD_eq
  intro i hi
  have hz := bit_of_and_eq_zero h i
  simp only [BitVec.getLsbD_append, BitVec.getLsbD_extractLsb']
  interval_cases i <;> simp at hz ⊢ <;> simp [hz]

theorem aux1_fields {a : U24} (h : a &&& 0xFFFFFE#24 = 0#24) :
    (0#23 ++ BitVec.ofBool (a.getLsbD 0) : U24) = a := by
  apply BitVec.eq_of_getLsbD_eq
  intro i hi
  have hz := bit_of_and_eq_zero h i
  simp only [BitVec.getLsbD_append]
  interval_cases i <;> simp at hz ⊢ <;> simp [hz]

theorem aux16_fields {a : U24} (h : a &&& 0xFF0000#24 = 0#24) : (0#8 ++ a.extractLsb' 0 16 : U24) = a := by
  apply BitVec.eq_of_getLsbD_eq
  intro i hi
  have hz := bit_of_and_eq_zero h i
  simp only [BitVec.getLsbD_append, BitVec.getLsbD_extractLsb']
  interval_cases i <;> simp at hz ⊢ <;> simp [hz]

theorem auxFlag_fields {a : U24} (h : a &&& 0x7F0000#24 = 0#24) :
    (BitVec.ofBool (a.getLsbD 23) ++ 0#7 ++ a.extractLsb' 0 16 : U24) = a := by
  apply BitVec.eq_of_getLsbD_eq
  intro i hi
  have hz := bit_of_and_eq_zero h i
  simp only [BitVec.getLsbD_append, BitVec.getLsbD_extractLsb']
  interval_cases i <;> simp at hz ⊢ <;> simp [hz]

theorem aux2_fields {a : U24} (h : a &&& 0xFFFFFC#24 = 0#24) : (0#22 ++ a.extractLsb' 0 2 : U24) = a := by
  apply BitVec.eq_of_getLsbD_eq
  intro i hi
  have hz := bit_of_and_eq_zero h i
  simp only [BitVec.getLsbD_append, BitVec.getLsbD_extractLsb']
  interval_cases i <;> simp at hz ⊢ <;> simp [hz]

theorem pairAux_fields {a : U24} (h : a &&& 0xFFC000#24 = 0#24) :
    pairAux (a.extractLsb' 0 2) (a.extractLsb' 2 2) (a.extractLsb' 4 7) (a.getLsbD 11) (a.getLsbD 12)
      (a.getLsbD 13) = a := by
  apply BitVec.eq_of_getLsbD_eq
  intro i hi
  have hz := bit_of_and_eq_zero h i
  simp only [BitVec.getLsbD_append, BitVec.getLsbD_extractLsb']
  interval_cases i <;> simp at hz ⊢ <;> simp [hz]

theorem extractAux_fields {a : U24} (h : a &&& 0x0000FC#24 = 0#24) :
    (a.extractLsb' 8 16 ++ 0#6 ++ a.extractLsb' 0 2 : U24) = a := by
  apply BitVec.eq_of_getLsbD_eq
  intro i hi
  have hz := bit_of_and_eq_zero h i
  simp only [BitVec.getLsbD_append, BitVec.getLsbD_extractLsb']
  interval_cases i <;> simp at hz ⊢ <;> simp [hz]

end Sys2Proof
end

