-- ==== Sys2Proof/Laws/PerInstr.lean ====
section
/-! SUPPORT. Statements made per operation, one lemma for each constructor of Instr. -/

namespace Sys2Proof.Laws

/-- The encoder writes as many words as the first word alone says (30_encoding.md R77). -/
def LengthByFirstWord.Statement (i : Instr) : Prop :=
  i.wf = true → (encode i).length = wordCount (mkWord i.opcode.byte i.aux i.data)

theorem LengthByFirstWord.edge (now : U32) : LengthByFirstWord.Statement (.edge now) := fun _ => by
  simp [encode, wordCount, Instr.payload, Instr.opcode, Opcode.byte]
theorem LengthByFirstWord.cstep : LengthByFirstWord.Statement .cstep := fun _ => by
  simp [encode, wordCount, Instr.payload, Instr.opcode, Opcode.byte]
theorem LengthByFirstWord.regwr (off : U8) (data : U32) : LengthByFirstWord.Statement (.regwr off data) := fun _ => by
  simp [encode, wordCount, Instr.payload, Instr.opcode, Opcode.byte]
theorem LengthByFirstWord.regrd (off : U8) : LengthByFirstWord.Statement (.regrd off) := fun _ => by
  simp [encode, wordCount, Instr.payload, Instr.opcode, Opcode.byte]
theorem LengthByFirstWord.reset : LengthByFirstWord.Statement .reset := fun _ => by
  simp [encode, wordCount, Instr.payload, Instr.opcode, Opcode.byte]
theorem LengthByFirstWord.chsend (acc : Bool) (iv : U32) : LengthByFirstWord.Statement (.chsend acc iv) := fun _ => by
  simp [encode, wordCount, Instr.payload, Instr.opcode, Opcode.byte]
theorem LengthByFirstWord.chrecv (iv : U32) : LengthByFirstWord.Statement (.chrecv iv) := fun _ => by
  simp [encode, wordCount, Instr.payload, Instr.opcode, Opcode.byte]
theorem LengthByFirstWord.push (slot : U16) (iv : U32) : LengthByFirstWord.Statement (.push slot iv) := fun _ => by
  simp [encode, wordCount, Instr.payload, Instr.opcode, Opcode.byte]
theorem LengthByFirstWord.trigchk (fired : Bool) (anchor : U16) (iv : U32) :
    LengthByFirstWord.Statement (.trigchk fired anchor iv) := fun _ => by
  simp [encode, wordCount, Instr.payload, Instr.opcode, Opcode.byte]
theorem LengthByFirstWord.winrd (k : U16) (x : U32) : LengthByFirstWord.Statement (.winrd k x) := fun _ => by
  simp [encode, wordCount, Instr.payload, Instr.opcode, Opcode.byte]
theorem LengthByFirstWord.classify (sym : Sym) (x : U32) : LengthByFirstWord.Statement (.classify sym x) := fun _ => by
  simp [encode, wordCount, Instr.payload, Instr.opcode, Opcode.byte]
theorem LengthByFirstWord.decinit (anchor : U16) : LengthByFirstWord.Statement (.decinit anchor) := fun _ => by
  simp [encode, wordCount, Instr.payload, Instr.opcode, Opcode.byte]
theorem LengthByFirstWord.pairstep (sym : Sym) (prev : Prev) (bp : BitVec 7) (closed bitset ov : Bool) :
    LengthByFirstWord.Statement (.pairstep sym prev bp closed bitset ov) := fun _ => by
  simp [encode, wordCount, Instr.payload, Instr.opcode, Opcode.byte]
theorem LengthByFirstWord.emitchk (emitted : Bool) (slot : U16) (value : U64) :
    LengthByFirstWord.Statement (.emitchk emitted slot value) := fun _ => by
  have h : wordCount (mkWord (Instr.emitchk emitted slot value).opcode.byte (Instr.emitchk emitted slot value).aux
      (Instr.emitchk emitted slot value).data) = if emitted then 2 else 1 := by
    simp only [wordCount, opOf_mkWord, auxOf_mkWord, Instr.opcode, Instr.aux, auxFlag_flag, if_true]
  rw [h]
  cases emitted <;> rfl
theorem LengthByFirstWord.extract (n : BitVec 2) (wc : U16) : LengthByFirstWord.Statement (.extract n wc) := fun _ => by
  simp [encode, wordCount, Instr.payload, Instr.opcode, Opcode.byte]
theorem LengthByFirstWord.output (a b : U64) : LengthByFirstWord.Statement (.output a b) := fun _ => by
  simp [encode, wordCount, Instr.payload, Instr.opcode, Opcode.byte]

end Sys2Proof.Laws
end

