-- ==== Sys2Proof/Tests/Slice0.lean ====
section
/-! SUPPORT. The model's own tests: ill-formed terms, words written out from 95_test_vectors.md 2.1, one-step vectors
of 2.2 to 2.6, and for every obligation with hypotheses a witness that meets them. -/

namespace Sys2Proof.Tests

open Sys2Proof.Machine

/-! ### Small states -/

/-- N = 4, C = 2, W = 2, the defaults, LAST0 = 0 and RING_INIT all zero. -/
def config : Config := { n := 4, c := 2, w := 2, anchorMode := .afterAdvance, emitMode := .level, last0 := 0, ringInit := [] }

/-- A run's start with T1 = 380, T2 = 580. -/
def start : State := { State.init config with t1 := 380, t2 := 580 }

/-- The same with EN = 1 and TRIG = 5000. -/
def running : State := { start with en := true, trig := 5000 }

/-- The start with N slots of 0 and 2 channel entries, in the anchor mode and emission mode given. -/
def sized (n : Nat) (a : AnchorMode) (e : EmitMode) : State :=
  { State.init { config with n := n, anchorMode := a, emitMode := e } with en := true, t1 := 380, t2 := 580, trig := 5000 }

/-- The running state with a decoder at the values given, no word emitted. -/
def decoding (acc : U64) (bitpos : BitVec 7) (prev : Prev) : State :=
  { running with dec := { running.dec with acc := acc, bitpos := bitpos, prev := prev } }

/-- The running state with emitted words, in a buffer of two slots or more. -/
def emitted (ws : List U64) : State :=
  { running with
    cfg := { config with w := ws.length + 2 }
    dec := { running.dec with words := ws ++ [0, 0], wc := ws.length } }

/-- Whether an outcome is a next state with the property. -/
def nextIs (o : Host.Outcome State Fault Refusal) (p : State → Bool) : Bool :=
  match o with
  | .next t => p t
  | .fault _ => false
  | .refused _ => false

/-- Whether an outcome is the refusal. -/
def refusedAs (o : Host.Outcome State Fault Refusal) (r : Refusal) : Bool :=
  match o with
  | .next _ => false
  | .fault _ => false
  | .refused q => decide (q = r)

/-- Whether an outcome is the fault. -/
def faultedAs (o : Host.Outcome State Fault Refusal) (f : Fault) : Bool :=
  match o with
  | .next _ => false
  | .fault g => decide (g = f)
  | .refused _ => false

/-- The operation words decode to, if any. -/
def read (ws : List U64) : Option Instr :=
  match decode ws with
  | .ok (i, _) => some i
  | .error _ => none

/-- Why words spell no operation, if they do not. -/
def readError (ws : List U64) : Option DecodeError :=
  match decode ws with
  | .ok _ => none
  | .error e => some e

/-! ### WellFormed: an ill-formed term for each check -/

theorem test_wf_trigchk_not_fired_with_anchor : (Instr.trigchk false 6 700).wf = false := by decide
theorem test_wf_emitchk_not_emitted_with_slot : (Instr.emitchk false 1 0).wf = false := by decide
theorem test_wf_emitchk_not_emitted_with_value : (Instr.emitchk false 0 5).wf = false := by decide
theorem test_wf_extract_three_values : (Instr.extract 3 0).wf = false := by decide

/-! ### Decoding: the words of 95_test_vectors.md 2.1 -/

theorem test_decode_edge : read [0x01000000000002BC] = some (.edge 700) := by decide
theorem test_decode_cstep : read [0x0200000000000000] = some .cstep := by decide
theorem test_decode_regwr : read [0x030000140000017C] = some (.regwr 0x14 380) := by decide
theorem test_decode_regrd : read [0x0400001000000000] = some (.regrd 0x10) := by decide
theorem test_decode_reset : read [0x0500000000000000] = some .reset := by decide
theorem test_decode_chsend : read [0x10000001000002BC] = some (.chsend true 700) := by decide
theorem test_decode_chrecv : read [0x11000000000001F4] = some (.chrecv 500) := by decide
theorem test_decode_push : read [0x1200000500001770] = some (.push 5 6000) := by decide
theorem test_decode_trigchk : read [0x1380000600001770] = some (.trigchk true 6 6000) := by decide
theorem test_decode_winrd : read [0x14000002000002BC] = some (.winrd 2 700) := by decide
theorem test_decode_classify : read [0x15000001000001F4] = some (.classify .mid 500) := by decide
theorem test_decode_decinit : read [0x1600000600000000] = some (.decinit 6) := by decide
theorem test_decode_pairstep : read [0x17001BF400000000] = some (.pairstep .low .mid 63 true true false) := by decide
theorem test_decode_pairstep_overrun :
    read [0x17002FF000000000] = some (.pairstep .low .low (-1) true false true) := by decide
theorem test_decode_emitchk :
    read [0x1880000000000000, 0xFFFFFFFFFFFFFFFE] = some (.emitchk true 0 0xFFFFFFFFFFFFFFFE) := by decide
theorem test_decode_extract : read [0x1900030200000000] = some (.extract 2 3) := by decide
theorem test_decode_output : read [0x1A00000000000000, 0xAAAAAAAAAAAAAAAA, 0xFFFFFFFFFFFFFFFE] =
    some (.output 0xAAAAAAAAAAAAAAAA 0xFFFFFFFFFFFFFFFE) := by decide
theorem test_decode_refuses_edge_aux : readError [0x0100000100000000] = some .mustBeZero := by decide
theorem test_decode_refuses_regwr_aux : readError [0x0300011400000000] = some .mustBeZero := by decide
theorem test_decode_refuses_zero : readError [0x0000000000000000] = some .reservedOp := by decide
theorem test_decode_refuses_symbol : readError [0x15000003000002BC] = some .reservedSym := by decide
theorem test_decode_refuses_count : readError [0x1900000300000000] = some .reservedCount := by decide
theorem test_table_word_output : decodeTableWord 192 (0x1A00000000000000 + 5 * 2 ^ 64 + 7 * 2 ^ 128) =
    some (.output 5 7) := by decide

/-! ### The step -/

theorem test_step_first_word : nextIs (step (start.withFetchWord 64 0x0300000C00000001)) (fun t => t.en) = true := by
  decide
theorem test_step_label_word : refusedAs (step (start.withFetchWord 64 0x1200000500001770)) .notStimulus = true := by
  decide
theorem test_step_misaligned : refusedAs (step (start.withFetchWord 64 0x0400000200000000)) .misaligned = true := by
  decide

/-! ### One step each: 95_test_vectors.md 2.2 to 2.6 -/

theorem test_edge_drop :
    nextIs (exec (.edge 1500) { running with last := 1000, chan := [300, 500] })
      (fun t => decide (t.last = 1500 ∧ t.chan = [300, 500])) = true := by decide
theorem test_edge_clock_wrap :
    nextIs (exec (.edge 0x100) { running with last := 0xFFFFFF00 }) (fun t => decide (t.chan = [0x200])) = true := by
  decide
theorem test_chsend_fills :
    nextIs (exec (.chsend false 200) { running with chan := [500] })
      (fun t => decide (t.chan = [500, 200] ∧ t.labels = [.chsend true 200])) = true := by decide
theorem test_chrecv_oldest :
    nextIs (exec (.chrecv 0) { running with chan := [500, 200] })
      (fun t => decide (t.chan = [200] ∧ t.labels = [.chrecv 500])) = true := by decide
theorem test_cstep_held : faultedAs (exec .cstep running) .consumerHeld = true := by decide
theorem test_cstep_p3 :
    nextIs (exec .cstep { sized 4 .atSample .level with trig := 1000, chan := [2000], ring := [300, 500, 0, 0], cursor := 2 })
      (fun t => decide (t.ring = [300, 500, 2000, 0] ∧ t.anchor = 2 ∧ t.trgcnt = 1 ∧ t.dec.prev = .mid ∧ t.dec.bitpos = 62)) =
      true := by decide
theorem test_push_wraps :
    nextIs (exec (.push 0 9) { running with cursor := 3 }) (fun t => decide (t.ring = [0, 0, 0, 9] ∧ t.cursor = 0)) =
      true := by decide
theorem test_trigchk_strict :
    nextIs (exec (.trigchk true 0 5000) running) (fun t => decide (t.trgcnt = 0)) = true := by decide
theorem test_trigchk_at_sample :
    nextIs (exec (.trigchk false 0 5001) { sized 4 .atSample .level with cursor := 0 })
      (fun t => decide (t.trgcnt = 1 ∧ t.anchor = 3)) = true := by decide
theorem test_winrd_wraps :
    nextIs (exec (.winrd 2 0) { running with ring := [10, 20, 30, 40], anchor := 3 })
      (fun t => decide (t.labels = [.winrd 2 20])) = true := by decide
theorem test_classify_bounds : (classify 380 580 380, classify 380 580 381, classify 380 580 580, classify 380 580 581) =
    (.low, .mid, .mid, .high) := by decide
theorem test_classify_label :
    nextIs (exec (.classify .low 500) running) (fun t => decide (t.labels = [.classify .mid 500])) = true := by decide
theorem test_decinit_keeps_overrun :
    nextIs (exec (.decinit 6) { decoding 5 3 .mid with overrun := true })
      (fun t => decide (t.dec.acc = 0 ∧ t.dec.bitpos = 63 ∧ t.dec.prev = .none ∧ t.overrun = true)) = true := by decide
theorem test_pairstep_sets_bit :
    nextIs (exec (.pairstep .low .none 0 false false false) (decoding 0 40 .mid))
      (fun t => decide (t.dec.acc = 0x0000010000000000 ∧ t.dec.bitpos = 39 ∧ t.dec.prev = .none)) = true := by decide
theorem test_pairstep_past_zero :
    nextIs (exec (.pairstep .low .none 0 false false false) (decoding 0x8000000000000000 0 .mid))
      (fun t => decide (t.dec.acc = 0x8000000000000001 ∧ t.dec.bitpos = -1)) = true := by decide
theorem test_emitchk_duplicate :
    nextIs (exec (.emitchk false 0 0) { decoding 0x8000000000000002 0 .mid with
        dec := { (decoding 0x8000000000000002 0 .mid).dec with wc := 1 } })
      (fun t => decide (t.dec.wc = 2 ∧ t.dec.words = [0, 0x8000000000000002] ∧ t.dec.bitpos = 0)) = true := by decide
theorem test_emitchk_zero_word :
    nextIs (exec (.emitchk false 0 0) (decoding 0 0 .none)) (fun t => decide (t.dec.wc = 0)) = true := by decide
theorem test_extract_skips_equal :
    nextIs (exec (.extract 0 0) (emitted [1, 2, 2]))
      (fun t => decide (t.col = { n := 2, a := 2, b := 1 } ∧ t.labels = [.extract 2 3])) = true := by decide
theorem test_extract_latest_two :
    nextIs (exec (.extract 0 0) (emitted [1, 2, 3])) (fun t => decide (t.col = { n := 2, a := 3, b := 2 })) = true := by
  decide
theorem test_output_count_wraps :
    nextIs (exec (.output 7 9) { running with rdcnt := 0xFFFFFFFF })
      (fun t => decide (t.rdcnt = 0 ∧ t.outs = [(7, 9)] ∧ t.rda = 7 ∧ t.rdb = 9)) = true := by decide
theorem test_regwr_bad_enable :
    nextIs (exec (.regwr 0x0C 1) { start with t1 := 600 }) (fun t => decide (t.en = false ∧ t.badcfg = true)) = true := by
  decide
theorem test_regwr_clear_one :
    nextIs (exec (.regwr 0x10 0x2) { running with cfgwe := true, overrun := true })
      (fun t => decide (t.cfgwe = false ∧ t.overrun = true)) = true := by decide
theorem test_regrd_params :
    nextIs (exec (.regrd 0x04) { start with cfg := Config.sourceExamples })
      (fun t => decide (t.reads = [(0x04, 0x00100008)])) = true := by decide
theorem test_regrd_reading_high :
    nextIs (exec (.regrd 0x24) { start with rda := 0xAAAAAAAA00000001 })
      (fun t => decide (t.reads = [(0x24, 0xAAAAAAAA)])) = true := by decide
theorem test_reset_keeps_outs :
    nextIs (exec .reset { running with last := 9, outs := [(1, 2)], trgcnt := 4 })
      (fun t => decide (t.en = false ∧ t.t1 = 0 ∧ t.last = 0 ∧ t.trgcnt = 0 ∧ t.outs = [(1, 2)])) = true := by decide

/-- The first word of `iv 700` at running time 100 (30_encoding.md R83). -/
theorem test_assemble_iv : assemble (.stmt (.iv 700) .done) { config with last0 := 100 } =
    [0x0100000000000320, 0x0200000000000000] := by decide

/-- `wr T1, 380 ; t1` and `rd @0x10` (30_encoding.md R74, R82). -/
theorem test_assemble_text : assembleText
    [['w', 'r', ' ', 'T', '1', ',', ' ', '3', '8', '0', ' ', ';', ' ', 't', '1'], [';'],
     ['r', 'd', ' ', '@', '0', 'x', '1', '0']] config = some [0x030000140000017C, 0x0400001000000000] := by decide

/-! ### Witnesses: encoding and the step -/

theorem test_witness_DecodeInvertsEncode : (Instr.trigchk true 0xFFFF 0).wf = true ∧ (Instr.extract 2 0xFFFF).wf = true ∧
    (Instr.emitchk true 0xFFFF 0xFFFFFFFFFFFFFFFF).wf = true ∧ (Instr.emitchk false 0 0).wf = true := by decide
theorem test_witness_EncodeInvertsDecode :
    decode [0x1A00000000000000, 1, 2, 3] = .ok (.output 1 2, [3]) := by rfl
theorem test_witness_DecodeAcceptsByMatchAndMask : SpellsOperation 0x1A00000000000000 ∧
    wordCount 0x1A00000000000000 = 3 ∧ ¬ SpellsOperation 0x1900000300000000 ∧ ¬ SpellsOperation 0x1300000100000000 := by
  unfold SpellsOperation ValueChecks
  decide
theorem test_witness_LengthFromFirstWord : decode [0x1800000000000000] = .ok (.emitchk false 0 0, []) ∧
    decode [0x1880000100000000, 4] = .ok (.emitchk true 1 4, []) ∧
    decode [0x1A00000000000000, 1, 2] = .ok (.output 1 2, []) := ⟨rfl, rfl, rfl⟩
theorem test_witness_StepRunsTheDecodedStimulus :
    Runnable { running with stim := [0x01000000000002BC, 0x0200000000000000] } ∧
    decode [0x01000000000002BC, 0x0200000000000000] = .ok (.edge 700, [0x0200000000000000]) ∧
    (Instr.edge 700).isStimulus = true := ⟨⟨rfl, rfl⟩, rfl, rfl⟩
theorem test_witness_WordsThatSpellNothingAreRefused :
    Runnable { running with stim := [0x0600000000000000] } ∧ ¬ SpellsOperation 0x0600000000000000 ∧
    ¬ SpellsOperation 0x1700000C00000000 := by
  refine ⟨⟨rfl, rfl⟩, ?_⟩
  unfold SpellsOperation ValueChecks
  decide
theorem test_witness_LabelWordsAreNotStimuli : SpellsOperation 0x10000001000002BC ∧ 0x10#8 ≤ opOf 0x10000001000002BC ∧
    SpellsOperation 0x1A00000000000000 ∧ 0x10#8 ≤ opOf 0x1A00000000000000 ∧
    Runnable { running with stim := [0x1A00000000000000] } := by
  refine ⟨?_, by decide, ?_, by decide, ⟨rfl, rfl⟩⟩ <;> unfold SpellsOperation ValueChecks <;> decide
theorem test_witness_NoStep_configuration :
    refusedAs (step { start with cfg := { config with n := 0 } }) .badParam = true ∧
    refusedAs (step { start with cfg := { config with c := 65536 } }) .badParam = true ∧
    refusedAs (step { start with cfg := { config with w := 0 } }) .badParam = true := by decide
theorem test_witness_NoStep_refused : faultedAs (step (markRefused { start with stim := [0x0200000000000000] })) .runRefused =
    true := by decide
theorem test_witness_EveryProgram_completed : runProgram 2 { start with stim := [0x0300001C00001388] } =
    .completed { start with trig := 5000 } := by rfl
theorem test_witness_EveryProgram_stuck : runProgram 2 { running with stim := [0x0200000000000000] } =
    .stuck { running with stim := [0x0200000000000000] } := by rfl
theorem test_witness_EveryProgram_refused : runProgram 2 { running with stim := [0x1200000500001770] } =
    .refused .notStimulus (markRefused { running with stim := [0x1200000500001770] }) := by rfl
theorem test_witness_EveryProgram_illConfigured :
    runProgram 1 { start with cfg := { config with n := 65536 } } =
      .illConfigured { start with cfg := { config with n := 65536 }, refused := true } := by rfl

/-! ### Witnesses: edge timer and channel -/

theorem test_witness_Edge_disabled : start.en = false := by decide
theorem test_witness_Edge_room : running.en = true ∧ running.chan.length < running.cfg.c ∧
    ({ running with chan := [1] } : State).chan.length < running.cfg.c := by decide
theorem test_witness_Edge_full : ({ running with chan := [1, 2] } : State).en = true ∧
    running.cfg.c ≤ ({ running with chan := [1, 2] } : State).chan.length := by decide
theorem test_witness_Chsend : ({ start with chan := [1] } : State).chan.length < start.cfg.c ∧
    start.cfg.c ≤ ({ start with chan := [1, 2] } : State).chan.length := by decide
theorem test_witness_Chrecv : start.chan = [] ∧ ({ start with chan := [7] } : State).chan = [7] := by decide
theorem test_witness_DroppedEdge :
    Ready { running with chan := [300, 500] } 300 [500] ∧ [300#32, 500#32].length = running.cfg.c :=
  ⟨⟨rfl, rfl, rfl⟩, rfl⟩
theorem test_witness_ReceivedThenQueued :
    nextIs (exec (.chrecv 0) { running with chan := [5], labels := [.chsend true 5] })
      (fun t => decide (receivedIntervals t.labels = [5] ∧ t.chan = [])) = true ∧
    receivedIntervals [.chsend true 5] ++ [5#32] = acceptedIntervals [.chsend true 5] := by decide

/-! ### Witnesses: ring, trigger, window -/

theorem test_witness_Push_last_slot : Memory.wf { running with cursor := 3 } ∧ Memory.wf running := by decide
theorem test_witness_Push_one_slot : Memory.wf (sized 1 .afterAdvance .level) := by decide
theorem test_witness_PushesKeepTheLatestSamples : Memory.wf { running with cursor := 3, ring := [20, 30, 40, 10] } ∧
    chronological { running with cursor := 3, ring := [20, 30, 40, 10] } = [10, 20, 30, 40] := by decide
theorem test_witness_Trigchk : (5000#32).toNat ≤ running.trig.toNat ∧ running.trig.toNat < (5001#32).toNat ∧
    running.cfg.anchorMode = .afterAdvance ∧ (sized 4 .atSample .level).cfg.anchorMode = .atSample := by decide
theorem test_witness_WindowIsChronological : Memory.wf running ∧ running.trig < 5001#32 ∧
    Memory.wf (sized 1 .atSample .level) ∧ (sized 1 .atSample .level).trig < 5001#32 := by decide
theorem test_witness_TriggersCount : ({ running with chan := [5000, 5001] } : State).en = true ∧
    ({ running with chan := [5000, 5001] } : State).refused = false ∧
    2 ≤ ({ running with chan := [5000, 5001] } : State).chan.length := by decide

/-! ### Witnesses: decoder -/

theorem test_witness_Classify : running.t2.toNat < (581#32).toNat ∧
    ((580#32).toNat ≤ running.t2.toNat ∧ running.t1.toNat < (580#32).toNat) ∧
    ((380#32).toNat ≤ running.t2.toNat ∧ (380#32).toNat ≤ running.t1.toNat) := by decide
theorem test_witness_Pairstep_pending : (decoding 0 0 .none).dec.prev = .none := by decide
theorem test_witness_Pairstep_past : Sym.mid ≠ .high ∧ (decoding 5 (-1) .low).dec.prev ≠ .none ∧
    (decoding 5 (-1) .low).dec.bitpos = -1 := by decide
theorem test_witness_Pairstep_one : (decoding 0 0 .mid).dec.prev = .mid ∧ (decoding 0 0 .mid).dec.bitpos ≠ -1 := by decide
theorem test_witness_Pairstep_zero : Sym.mid ≠ .high ∧ (decoding 0 63 .mid).dec.prev ≠ .none ∧
    ¬ ((decoding 0 63 .mid).dec.prev = .mid ∧ Sym.mid = .low) ∧ (decoding 0 63 .mid).dec.bitpos ≠ -1 := by decide
theorem test_witness_Emitchk_level : emits running.cfg (decoding 2 0 .mid).dec = true := by decide
theorem test_witness_Emitchk_onDecrement :
    emits (sized 4 .afterAdvance .onDecrement).cfg
      { (decoding 2 0 .none).dec with closed := true, bitposBefore := 1 } = true ∧
    emits (sized 4 .afterAdvance .onDecrement).cfg { (decoding 2 0 .none).dec with closed := false, bitposBefore := 0 } =
      false := by decide
theorem test_witness_Emitchk_full :
    emits running.cfg { (decoding 2 0 .mid).dec with wc := 2 } = false := by decide

/-- A trigger whose window is no longer than `m`, with a HIGH received: a run of `m` samples is the whole window, and
holds it. -/
theorem no_run_without_high {s : State} {iv : U32} {m : Nat} (hw : Memory.wf s) (hn : s.cfg.n = m) (hh : s.t2 < iv) :
    ∀ pre run post, triggerWindow s iv = pre ++ run ++ post → run.length = m → ∃ x ∈ run, s.t2 < x := by
  intro pre run post he hl
  have hlen := congrArg List.length he
  simp only [triggerWindow, List.length_rotate, List.length_set, hw.1, hn, List.length_append] at hlen
  have hpre : pre = [] := List.length_eq_zero_iff.1 (by omega)
  have hpost : post = [] := List.length_eq_zero_iff.1 (by omega)
  subst hpre hpost
  rw [List.nil_append, List.append_nil] at he
  have hm : iv ∈ triggerWindow s iv := by
    rw [triggerWindow, List.mem_rotate]
    exact List.mem_set (by rw [hw.1]; exact hw.2.1) iv
  exact ⟨iv, he ▸ hm, hh⟩

/-- A sized state with one interval queued keeps the storage form. -/
theorem sized_wf (n : Nat) (a : AnchorMode) (e : EmitMode) (iv : U32) (h : 0 < n) :
    Memory.wf { sized n a e with chan := [iv] } :=
  ⟨initialRing_length _, h, by simp [sized, State.init, config], by simp [sized, State.init, config], Nat.zero_le _⟩

theorem test_witness_EmissionNeedsARunOf126 :
    Memory.wf { sized 126 .afterAdvance .level with chan := [6000] } ∧
    Ready { sized 126 .afterAdvance .level with chan := [6000] } 6000 [] ∧ (5000#32 < 6000#32) ∧
    (∀ pre run post, triggerWindow { sized 126 .afterAdvance .level with chan := [6000] } 6000 = pre ++ run ++ post →
      run.length = 126 → ∃ x ∈ run, 580#32 < x) :=
  have hw := sized_wf 126 .afterAdvance .level 6000 (by decide)
  ⟨hw, ⟨rfl, rfl, rfl⟩, by decide, no_run_without_high hw rfl (by decide)⟩

theorem test_witness_OverrunNeedsARunOf130 :
    Memory.wf { sized 130 .atSample .onDecrement with chan := [6000] } ∧
    Ready { sized 130 .atSample .onDecrement with chan := [6000] } 6000 [] ∧ (5000#32 < 6000#32) ∧
    (∀ pre run post, triggerWindow { sized 130 .atSample .onDecrement with chan := [6000] } 6000 = pre ++ run ++ post →
      run.length = 130 → ∃ x ∈ run, 580#32 < x) :=
  have hw := sized_wf 130 .atSample .onDecrement 6000 (by decide)
  ⟨hw, ⟨rfl, rfl, rfl⟩, by decide, no_run_without_high hw rfl (by decide)⟩

theorem test_witness_DecodeDependsOnTheWindowAlone :
    Memory.wf { running with ring := [1, 2, 3, 4], anchor := 0 } ∧
    Memory.wf { running with ring := [4, 1, 2, 3], anchor := 1, last := 9 } ∧
    window { running with ring := [1, 2, 3, 4], anchor := 0 } =
      window { running with ring := [4, 1, 2, 3], anchor := 1, last := 9 } := by decide
theorem test_witness_OneFrameEmitsNoReading :
    Memory.wf { running with trig := 100, chan := [200] } ∧ Ready { running with trig := 100, chan := [200] } 200 [] ∧
    (100#32 < 200#32) ∧ triggerWindow { running with trig := 100, chan := [200] } 200 = [0, 0, 0, 200] ∧
    (∀ x ∈ [0#32, 0#32, 0#32, 200#32], x ≤ 580#32) :=
  ⟨by decide, ⟨rfl, rfl, rfl⟩, by decide, rfl, by simp⟩

/-- One frame of 64 (MID, LOW) pairs, ending with the interval that fires. -/
def oneFrame : State :=
  { sized 128 .afterAdvance .level with
    trig := 100, ring := (List.replicate 64 [500, 200]).flatten, cursor := 127, chan := [200] }

set_option maxRecDepth 100000 in
/-- That frame meets the premises, and both of its two equal words are emitted (43_decoder.md R144). -/
theorem test_witness_OneFrame_emits : Memory.wf oneFrame ∧ Ready oneFrame 200 [] ∧ oneFrame.trig < 200#32 ∧
    (triggerWindow oneFrame 200).all (fun x => decide (x ≤ oneFrame.t2)) = true ∧
    nextIs (exec .cstep oneFrame)
      (fun t => decide (t.lastwc = 2 ∧ t.dec.words = [0xFFFFFFFFFFFFFFFE, 0xFFFFFFFFFFFFFFFE] ∧ t.outs = [])) = true :=
  ⟨by decide, ⟨rfl, rfl, rfl⟩, by decide, by decide, by decide⟩

/-! ### Witnesses: extractor, sequencer -/

theorem test_witness_Extract :
    ((emitted []).dec.words.take (emitted []).dec.wc).reverse = [] ∧
    ((emitted [8, 8]).dec.words.take (emitted [8, 8]).dec.wc).reverse = [8, 8] ∧
    ((emitted [1, 2, 2]).dec.words.take (emitted [1, 2, 2]).dec.wc).reverse = 2 :: ([2] ++ 1 :: []) := by decide
theorem test_witness_OutputHistoryOnlyGrows : nextIs (exec .reset running) (fun _ => true) = true := by decide
theorem test_witness_ReadingRegisters : nextIs (exec (.output 1 2) running) (fun t => decide (t.outs = [(1, 2)])) = true ∧
    nextIs (exec (.regwr 0x10 0) running) (fun t => decide (t.outs = [])) = true := by decide
theorem test_witness_ConsumerHeld : ¬ (start.en = true ∧ start.chan ≠ [] ∧ start.refused = false) := by decide
theorem test_witness_CstepWithoutTrigger : Memory.wf { running with chan := [5000] } ∧
    Ready { running with chan := [5000] } 5000 [] ∧ ¬ running.trig < 5000#32 :=
  ⟨by decide, ⟨rfl, rfl, rfl⟩, by decide⟩
theorem test_witness_CstepOnTrigger : ({ running with chan := [5001, 7] } : State).cfg.wf = true ∧
    Memory.wf { running with chan := [5001, 7] } ∧ Ready { running with chan := [5001, 7] } 5001 [7] ∧
    running.trig < 5001#32 := ⟨by decide, by decide, ⟨rfl, rfl, rfl⟩, by decide⟩

/-- The ring of program P2 (95_test_vectors.md) before its last CSTEP: a frame of 63 ones, then one of alternating bits
and an unpaired LOW, and the slot the trigger's interval goes to. -/
def twoFrames : List U32 :=
  [700] ++ (List.replicate 63 [500, 200]).flatten ++ [700, 500, 200] ++
    (List.replicate 31 [200, 200, 500, 200]).flatten ++ [200, 0]

/-- P2's state before that CSTEP. -/
def beforeReading : State :=
  { State.init { config with n := 256, w := 4 } with
    en := true, t1 := 380, t2 := 580, trig := 5000, ring := twoFrames, cursor := 255, chan := [6000] }

set_option maxRecDepth 100000 in
/-- P2's end: two words and the LEVEL duplicate, one reading (95_test_vectors.md, P2). -/
theorem test_witness_CstepOnTrigger_reading : nextIs (exec .cstep beforeReading)
    (fun t => decide (t.lastwc = 3 ∧ t.col.n = 2 ∧ t.rdcnt = 1 ∧ t.overrun = false ∧
      t.outs = [(0xAAAAAAAAAAAAAAAA, 0xFFFFFFFFFFFFFFFE)])) = true := by decide

theorem test_witness_EdgeAndCstepCommute :
    Ready { running with chan := [300] } 300 [] ∧ ([300#32].length < running.cfg.c) ∧
    Ready { running with chan := [300, 500] } 300 [500] ∧ ([300#32, 500#32].length = running.cfg.c) :=
  ⟨⟨rfl, rfl, rfl⟩, by decide, ⟨rfl, rfl, rfl⟩, by decide⟩

/-! ### Witnesses: host registers -/

theorem test_witness_CtrlWrite : (0#32).getLsbD 0 = false ∧ (1#32).getLsbD 0 = true ∧ start.en = false ∧
    start.t1.toNat < start.t2.toNat ∧ ({ start with t1 := 580 } : State).t2.toNat ≤ (580#32).toNat ∧ running.en = true := by
  decide
theorem test_witness_ThresholdWrites : running.en = true ∧ start.en = false := by decide
theorem test_witness_OtherRegisterAccesses : (0xFF#8).toNat % 4 ≠ 0 ∧ (0x08#8).toNat % 4 = 0 ∧
    0x08#8 ∉ [0x0C#8, 0x10#8, 0x14#8, 0x18#8, 0x1C#8] := by decide
theorem test_witness_ReadReturnsTheRegister : 0x3C ≤ (0x3C#8).toNat ∧ (0x3C#8).toNat % 4 = 0 ∧ 0x3C ≤ (0xFC#8).toNat ∧
    (0xFC#8).toNat % 4 = 0 := by decide
theorem test_witness_DisableAndReenable : running.en = true ∧ running.t1 < running.t2 ∧ (0#32).getLsbD 0 = false ∧
    (1#32).getLsbD 0 = true := by decide
theorem test_witness_ConfigurationIsLocked :
    nextIs (exec (.regwr 0x14 5) start) (fun t => decide ((t.t1, t.t2, t.trig) ≠ (start.t1, start.t2, start.trig))) = true := by
  decide
theorem test_witness_EachAgent : (Instr.edge 5).isStimulus = true ∧ nextIs (exec (.edge 5) running) (fun _ => true) = true ∧
    nextIs (exec .cstep { running with chan := [5] }) (fun _ => true) = true := by decide
theorem test_witness_Conditions :
    Condition.drop.metBy (.chsend false 1) { running with chan := [1, 2] } = true ∧
    Condition.trunc.metBy (.emitchk false 0 0) { running with dec := { (decoding 2 0 .mid).dec with wc := 2 } } = true ∧
    Condition.underflow.metBy (.extract 0 0) (emitted [1, 1]) = true ∧
    Condition.overrun.metBy (.pairstep .low .none 0 false false false) (decoding 0 (-1) .low) = true ∧
    Condition.badcfg.metBy (.regwr 0x0C 1) { start with t1 := 580 } = true ∧
    Condition.cfgwe.metBy (.regwr 0x18 650) running = true := by decide
theorem test_witness_IvDelivers : Memory.wf running ∧ running.en = true ∧ running.refused = false ∧ running.chan = [] ∧
    1 ≤ running.cfg.c := by decide

/-! ### Witnesses: the invariant -/

theorem test_witness_InvariantHoldsAtReset : config.wf = true ∧ ({ config with n := 65535, c := 1, w := 1 } : Config).wf =
    true := by decide

/-- A state with a trigger to run. -/
def armed : State := { running with chan := [6000], stim := [0x0200000000000000] }

theorem test_witness_EveryStep_invariant : armed.Inv :=
  { config := by decide
    storage := by decide
    thresholds := fun _ => by decide
    bitpos := .inr (by decide)
    accBelow := fun _ i _ => by simp [armed, running, start, State.init]
    words := fun w hw => absurd hw (by simp [armed, running, start, State.init, emittedWords])
    anchor := by decide
    index := by decide
    lastWords := by decide
    collected := by decide
    readings := fun p hp => absurd hp (by simp [armed, running, start, State.init])
    history := fun l hl => absurd hl (by simp [armed, running, start, State.init]) }
theorem test_witness_EveryStep_next : nextIs (step armed) (fun t => decide (t.trgcnt = 1 ∧ t.stim = [])) = true := by decide

end Sys2Proof.Tests
end

section
/-! When the machine takes no step: what `fetch`, and so `step`, answers to an ill-formed configuration and to a
refused run. -/

namespace Sys2Proof

/-- R7's bounds on N, C and W, as the check `Config.wf` decides them. -/
theorem Config.wf_iff (c : Config) :
    c.wf = true ↔
      1 ≤ c.n ∧ c.n ≤ 65535 ∧ 1 ≤ c.c ∧ c.c ≤ 65535 ∧ 1 ≤ c.w ∧ c.w ≤ 65535 := by
  simp [Config.wf, and_assoc]

namespace Machine

variable {s : State}

theorem fetch_of_refused (h : s.refused = true) : fetch s = .fault .runRefused := by
  simp [fetch, h]

theorem fetch_of_illConfigured (hr : s.refused = false) (hc : s.cfg.wf = false) :
    fetch s = .refused .badParam := by
  simp [fetch, hr, hc]

theorem step_of_refused (h : s.refused = true) : step s = .fault .runRefused := by
  simp [step, fetch_of_refused h]

theorem step_of_illConfigured (hr : s.refused = false) (hc : s.cfg.wf = false) :
    step s = .refused .badParam := by
  simp [step, fetch_of_illConfigured hr hc]

/-- Settles O9: `fetch` asks for the refusal mark first and the configuration second, so neither kind of state gets as
far as an operation. -/
theorem noStepWithoutConfigurationOrAfterRefusal :
    Obligations.NoStepWithoutConfigurationOrAfterRefusal := by
  intro s
  constructor
  · intro hr hc
    rw [← Config.wf_iff, Bool.not_eq_true] at hc
    exact step_of_illConfigured hr hc
  · intro hr t
    simp [step_of_refused hr]

end Machine
end Sys2Proof
end

section
/-! Every step keeps the invariant `State.Inv`, and the output history only grows: the operation a step runs, the facts
of the decoder and of the backward scan that the invariant turns on, then one lemma per operation. -/

namespace Sys2Proof

/-- The five operations that may be a stimulus word (30_encoding.md R79). -/
theorem Instr.isStimulus_cases {i : Instr} (h : i.isStimulus = true) :
    (∃ now, i = .edge now) ∨ i = .cstep ∨ (∃ off data, i = .regwr off data) ∨ (∃ off, i = .regrd off) ∨
      i = .reset := by
  cases i
  case edge now => exact .inl ⟨now, rfl⟩
  case cstep => exact .inr (.inl rfl)
  case regwr off data => exact .inr (.inr (.inl ⟨off, data, rfl⟩))
  case regrd off => exact .inr (.inr (.inr (.inl ⟨off, rfl⟩)))
  case reset => exact .inr (.inr (.inr (.inr rfl)))
  all_goals cases h

namespace Machine

variable {s t : State}

/-! ### The operation a step runs -/

/-- What `fetch` hands over is a stimulus operation, and only the program has changed. -/
theorem fetch_next {i : Instr} (h : fetch s = .next (i, t)) :
    i.isStimulus = true ∧ ∃ rest, t = { s with stim := rest } := by
  unfold fetch at h
  repeat' split at h
  all_goals cases h
  exact ⟨‹_›, _, rfl⟩

/-- A step runs a stimulus operation on the state with some of the program taken off. -/
theorem step_next (h : step s = .next t) :
    ∃ i rest, i.isStimulus = true ∧ exec i { s with stim := rest } = .next t := by
  unfold step at h
  split at h
  next i u hf =>
    obtain ⟨hi, rest, rfl⟩ := fetch_next hf
    exact ⟨i, rest, hi, h⟩
  · cases h
  · cases h

/-! ### The accumulator and the bit position (43_decoder.md R143, 10_state.md R25) -/

/-- `p` is a value BITPOS takes, and the bits of `acc` at and below an open position are still 0: the clauses `bitpos`
and `accBelow` of the invariant, for a decoder and for what a PAIRSTEP computes alike. -/
structure OpenBitsClear (acc : U64) (p : BitVec 7) : Prop where
  range : p = -1 ∨ p.toNat ≤ 63
  below : p ≠ -1 → ∀ i, i ≤ p.toNat → acc.getLsbD i = false

theorem State.Inv.openBitsClear (h : s.Inv) : OpenBitsClear s.dec.acc s.dec.bitpos := ⟨h.bitpos, h.accBelow⟩

theorem openBitsClear_start : OpenBitsClear 0 63 := ⟨.inr (by decide), fun _ _ _ => BitVec.getLsbD_zero⟩

theorem getLsbD_setBit_of_lt (acc : U64) {p : BitVec 7} {i : Nat} (h : i < p.toNat) :
    (setBit acc p).getLsbD i = acc.getLsbD i := by
  simp [setBit, h]

/-- Position `p` closes: whatever happens to the bits from `p` up, those below `p` are the open ones now. -/
theorem OpenBitsClear.next {acc acc' : U64} {p : BitVec 7} (h : OpenBitsClear acc p) (hp : p ≠ -1)
    (hacc : ∀ i, i < p.toNat → acc'.getLsbD i = acc.getLsbD i) : OpenBitsClear acc' (p - 1) := by
  have hle : p.toNat ≤ 63 := h.range.resolve_left hp
  by_cases h0 : p = 0
  · subst h0
    exact ⟨.inl rfl, fun hne => absurd rfl hne⟩
  · have hpos : 0 < p.toNat := Nat.pos_of_ne_zero fun e => h0 (BitVec.eq_of_toNat_eq e)
    have hsub : (p - 1).toNat = p.toNat - 1 := by bv_omega
    refine ⟨.inr (by omega), fun _ i hi => ?_⟩
    rw [hacc i (by omega)]
    exact h.below hp i (by omega)

theorem OpenBitsClear.closePair {d : Decoder} (h : OpenBitsClear d.acc d.bitpos) (one : Bool) :
    OpenBitsClear (closePair one d).acc (closePair one d).bitpos := by
  by_cases hp : d.bitpos = -1
  · rw [closePair_exhausted hp]
    exact ⟨.inl rfl, fun hne => absurd rfl hne⟩
  · rw [closePair_open hp]
    refine h.next hp fun i hi => ?_
    cases one
    · rfl
    · exact getLsbD_setBit_of_lt d.acc hi

theorem OpenBitsClear.pairResult {d : Decoder} (h : OpenBitsClear d.acc d.bitpos) (sym : Sym) :
    OpenBitsClear (pairResult sym d).acc (pairResult sym d).bitpos := by
  by_cases hs : sym = .high
  · rw [hs]
    exact openBitsClear_start
  · by_cases hp : d.prev = .none
    · rw [pairResult_pending hs hp]
      exact h
    · rw [pairResult_closing hs hp]
      exact h.closePair _

/-! ### Emission (43_decoder.md R144, R146, R147) -/

/-- An emission happens at bit position 0 only, so its assignment of 0 changes nothing. -/
@[simp] theorem afterEmitchk_bitpos (c : Config) (d : Decoder) : (d.afterEmitchk c).bitpos = d.bitpos := by
  obtain ⟨he, hd⟩ | ⟨-, hd⟩ := afterEmitchk_cases c d
  · rw [hd, emit_bitpos, ((emits_iff c d).1 he).1]
  · rw [hd]

@[simp] theorem afterEmitchk_acc (c : Config) (d : Decoder) : (d.afterEmitchk c).acc = d.acc := by
  obtain ⟨-, hd⟩ | ⟨-, hd⟩ := afterEmitchk_cases c d <;> simp [hd]

theorem emittedWords_emit {d : Decoder} (h : d.wc < d.words.length) :
    emittedWords d.emit = emittedWords d ++ [d.acc] := by
  simp [emittedWords, List.take_add_one, List.take_set_of_le, h]

/-- An emitted word has bit 0 clear because position 0 is still open when it is emitted. -/
theorem emittedShape_of_emits {c : Config} {d : Decoder} (hb : OpenBitsClear d.acc d.bitpos)
    (he : emits c d = true) : EmittedShape d.acc := by
  obtain ⟨hp, hacc, -, -⟩ := (emits_iff c d).1 he
  exact ⟨hacc, hb.below (by rw [hp]; decide) 0 (Nat.zero_le _)⟩

theorem emittedShape_afterEmitchk {c : Config} {d : Decoder} (hb : OpenBitsClear d.acc d.bitpos)
    (hl : d.words.length = c.w) (hw : ∀ w ∈ emittedWords d, EmittedShape w) :
    ∀ w ∈ emittedWords (d.afterEmitchk c), EmittedShape w := by
  obtain ⟨he, hd⟩ | ⟨-, hd⟩ := afterEmitchk_cases c d
  · obtain ⟨-, -, hslot, -⟩ := (emits_iff c d).1 he
    rw [hd, emittedWords_emit (hl ▸ hslot)]
    simpa [or_imp, forall_and] using And.intro hw (emittedShape_of_emits hb he)
  · rwa [hd]

/-! ### The backward scan (44_extractor_output.md R170, R172) -/

/-- What a scan of some of the words `ws` may hold: at most two values, taken from `ws`, the second not the first. -/
structure CollectedFrom (ws : List U64) (c : Collected) : Prop where
  count : c.n ≤ 2
  first : c.n ≠ 0 → c.a ∈ ws
  second : c.n = 2 → c.b ∈ ws ∧ c.a ≠ c.b

theorem CollectedFrom.collect {ws : List U64} {c : Collected} {w : U64} (h : CollectedFrom ws c) (hw : w ∈ ws) :
    CollectedFrom ws (collect c w) := by
  unfold Machine.collect
  split
  · exact ⟨by simp, fun _ => hw, by simp⟩
  · split
    next h0 h1 => exact ⟨by simp, fun _ => h.first h0, fun _ => ⟨hw, h1.2.symm⟩⟩
    · exact h

theorem CollectedFrom.foldl_collect {ws vs : List U64} (hv : ∀ v ∈ vs, v ∈ ws) {c : Collected}
    (h : CollectedFrom ws c) : CollectedFrom ws (vs.foldl Machine.collect c) := by
  induction vs generalizing c with
  | nil => exact h
  | cons v vs ih =>
    obtain ⟨hhead, htail⟩ := List.forall_mem_cons.1 hv
    exact ih htail (h.collect hhead)

theorem collectedFrom_collectAll (ws : List U64) : CollectedFrom ws (collectAll ws) :=
  .foldl_collect (fun _ => List.mem_reverse.1) ⟨by simp, by simp, by simp⟩

theorem CollectedFrom.readingShape {ws : List U64} {c : Collected} (h : CollectedFrom ws c) (hn : c.n = 2)
    (hw : ∀ w ∈ ws, EmittedShape w) : ReadingShape (c.a, c.b) := by
  obtain ⟨hb, hne⟩ := h.second hn
  exact ⟨hne, hw _ (h.first (by omega)), hw _ hb⟩

/-! ### The label history -/

theorem State.Inv.history_snoc (h : s.Inv) {l : Instr} (hl : LabelShape l) : ∀ x ∈ s.labels ++ [l], LabelShape x :=
  List.forall_mem_append.2 ⟨h.history, List.forall_mem_singleton.2 hl⟩

theorem labelShape_trigchk (iv : U32) (s : State) : LabelShape (.trigchk (fires iv s.trig)
    (if fires iv s.trig then field16 (anchorFor s.cursor s.cfg) else 0) iv) := by
  refine ⟨?_, rfl⟩
  cases h : fires iv s.trig <;> simp [Instr.wf]

theorem labelShape_emitchk (c : Config) (d : Decoder) : LabelShape (.emitchk (emits c d)
    (if emits c d then field16 d.wc else 0) (if emits c d then d.acc else 0)) := by
  refine ⟨?_, rfl⟩
  cases h : emits c d <;> simp [Instr.wf]

theorem labelShape_extract {n : Nat} (wc : U16) (h : n ≤ 2) : LabelShape (.extract (BitVec.ofNat 2 n) wc) := by
  refine ⟨?_, rfl⟩
  interval_cases n <;> rfl

/-! ### The operations keep the invariant -/

theorem inv_stim (h : s.Inv) (ws : List U64) : ({ s with stim := ws } : State).Inv := { h with }

theorem inv_recordRead (h : s.Inv) (off : U8) (v : U32) : (recordRead off v s).Inv := { h with }

theorem inv_captureEdge (h : s.Inv) (now : U32) : (captureEdge now s).Inv :=
  { h with
    storage := Memory.wf_captureEdge now h.storage
    history := h.history_snoc ⟨rfl, rfl⟩ }

theorem inv_chrecv (h : s.Inv) : (chrecv s).Inv :=
  { h with
    storage := Memory.wf_chrecv h.storage
    history := h.history_snoc ⟨rfl, rfl⟩ }

theorem inv_push (h : s.Inv) (iv : U32) : (push iv s).Inv :=
  { h with
    storage := Memory.wf_push iv h.storage
    history := h.history_snoc ⟨rfl, rfl⟩ }

theorem inv_trigchk (h : s.Inv) (iv : U32) : (trigchk iv s).Inv :=
  have hcursor : s.cursor < s.cfg.n := h.storage.2.1
  { h with
    anchor := by
      rw [trigchk_anchor]
      split
      · exact anchorFor_lt hcursor
      · exact h.anchor
    history := h.history_snoc (labelShape_trigchk iv s) }

theorem inv_winrd (h : s.Inv) (i : Nat) : (winrd i s).Inv :=
  { h with
    index := Nat.mod_lt _ (Nat.zero_lt_of_lt h.index)
    history := h.history_snoc ⟨rfl, rfl⟩ }

theorem inv_classifyOp (h : s.Inv) (x : U32) : (classifyOp x s).Inv :=
  { h with history := h.history_snoc ⟨rfl, rfl⟩ }

theorem inv_decinit (h : s.Inv) (a : U16) : (decinit a s).Inv :=
  { h with
    storage := Memory.wf_decinit a h.storage
    bitpos := openBitsClear_start.range
    accBelow := openBitsClear_start.below
    words := fun _ hw => nomatch hw
    history := h.history_snoc ⟨rfl, rfl⟩ }

theorem inv_pairstep (h : s.Inv) (sym : Sym) : (pairstep sym s).Inv :=
  have hb := h.openBitsClear.pairResult sym
  { h with
    bitpos := hb.range
    accBelow := hb.below
    history := h.history_snoc ⟨rfl, rfl⟩ }

theorem inv_emitchk (h : s.Inv) : (emitchk s).Inv :=
  have hlength : s.dec.words.length = s.cfg.w := h.storage.2.2.2.1
  { h with
    storage := Memory.wf_emitchk h.storage
    bitpos := by simpa using h.bitpos
    accBelow := by simpa using h.accBelow
    words := emittedShape_afterEmitchk h.openBitsClear hlength h.words
    history := h.history_snoc (labelShape_emitchk s.cfg s.dec) }

/-- LASTWC holds the count exactly, since W fits its 16 bits (00_scope.md R7). -/
theorem inv_latchWordCount (h : s.Inv) : (latchWordCount s).Inv :=
  have hcount : s.dec.wc ≤ s.cfg.w := h.storage.2.2.2.2
  { h with lastWords := by simpa [field16] using (Nat.mod_le _ _).trans hcount }

theorem inv_extract (h : s.Inv) : (extract s).Inv :=
  have hc := (collectedFrom_collectAll (emittedWords s.dec)).count
  { h with
    collected := hc
    history := h.history_snoc (labelShape_extract _ hc) }

theorem inv_output (h : s.Inv) {a b : U64} (hab : ReadingShape (a, b)) : (output a b s).Inv :=
  { h with
    readings := List.forall_mem_append.2 ⟨h.readings, List.forall_mem_singleton.2 hab⟩
    history := h.history_snoc ⟨rfl, rfl⟩ }

theorem inv_resetBlock (h : s.Inv) : (resetBlock s).Inv :=
  { h with
    storage := Memory.wf_resetBlock h.storage
    thresholds := fun hen => nomatch hen
    lastWords := Nat.zero_le _ }

/-- T1 and T2 change only while EN = 0, and EN is set only when T1 < T2 (45_sequencer_host.md R191, R192). -/
theorem inv_regWrite (h : s.Inv) (r : Option HostReg) (d : U32) : (regWrite r d s).Inv := by
  obtain e | ⟨b, -, e, hb⟩ | ⟨-, -, e⟩ | ⟨-, e⟩ | ⟨-, e⟩ | ⟨hoff, -, e⟩ | ⟨hoff, -, e⟩ | ⟨-, -, e⟩ :=
    regWrite_cases r d s <;> rw [e]
  · exact h
  · exact { h with thresholds := hb }
  · exact { h with }
  · exact { h with }
  · exact { h with }
  · exact { h with thresholds := fun hon => absurd (hoff.symm.trans hon) Bool.false_ne_true }
  · exact { h with thresholds := fun hon => absurd (hoff.symm.trans hon) Bool.false_ne_true }
  · exact { h with }

/-! ### DECODE, a fired trigger and a consumer step keep the invariant -/

theorem inv_decodeSample (h : s.Inv) (i : Nat) : (decodeSample s i).Inv :=
  inv_emitchk (inv_pairstep (inv_classifyOp (inv_winrd h i) _) _)

theorem inv_foldl_decodeSample (h : s.Inv) (ks : List Nat) : (ks.foldl decodeSample s).Inv := by
  induction ks generalizing s with
  | nil => exact h
  | cons i ks ih => exact ih (inv_decodeSample h i)

theorem inv_decodeWindow (h : s.Inv) : (decodeWindow s).Inv :=
  inv_foldl_decodeSample (inv_decinit h _) _

theorem inv_runTrigger (h : s.Inv) : (runTrigger s).Inv := by
  have he := inv_extract (inv_latchWordCount (inv_decodeWindow h))
  unfold runTrigger
  obtain ⟨hn, ho⟩ | ⟨-, ho⟩ := outputReading_cases (extract (latchWordCount (decodeWindow s))) <;> rw [ho]
  · exact inv_output he ((collectedFrom_collectAll _).readingShape hn he.words)
  · exact he

theorem inv_receivePush (h : s.Inv) : (receivePush s).Inv :=
  inv_trigchk (inv_push (inv_chrecv h) _) _

theorem inv_consumerStep (h : s.Inv) : (consumerStep s).Inv := by
  obtain ⟨-, e⟩ | ⟨-, e⟩ := consumerStep_cases s <;> rw [e]
  · exact inv_runTrigger (inv_receivePush h)
  · exact inv_receivePush h

/-- Every stimulus operation keeps the invariant. An OUTPUT run on its own need not: its payload is any two words. -/
theorem exec_stimulus_keeps_inv {i : Instr} (h : s.Inv) (hi : i.isStimulus = true) (he : exec i s = .next t) :
    t.Inv := by
  obtain ⟨now, rfl⟩ | rfl | ⟨off, data, rfl⟩ | ⟨off, rfl⟩ | rfl := Instr.isStimulus_cases hi
  · rw [execEdge_next.1 he]
    split
    · exact inv_captureEdge h now
    · exact h
  · rw [(execCstep_next.1 he).2]
    exact inv_consumerStep h
  · rw [(execRegwr_next.1 he).2]
    exact inv_regWrite h _ data
  · rw [(execRegrd_next.1 he).2]
    exact inv_recordRead h off _
  · cases he
    exact inv_resetBlock h

/-- Settles O52: a step runs a stimulus operation on the state with its words taken off the program, and every stimulus
operation keeps the invariant. -/
theorem everyStepKeepsTheInvariant : Obligations.EveryStepKeepsTheInvariant := by
  intro s t h hs
  obtain ⟨i, rest, hi, he⟩ := step_next hs
  exact exec_stimulus_keeps_inv (inv_stim h rest) hi he

/-! ### The output history (10_state.md R44) -/

@[simp] theorem regWrite_outs (r : Option HostReg) (d : U32) (s : State) : (regWrite r d s).outs = s.outs := by
  obtain e | ⟨b, -, e, -⟩ | ⟨-, -, e⟩ | ⟨-, e⟩ | ⟨-, e⟩ | ⟨-, -, e⟩ | ⟨-, -, e⟩ | ⟨-, -, e⟩ :=
    regWrite_cases r d s <;> simp [e]

theorem outs_isPrefix_outputReading (s : State) : s.outs <+: (outputReading s).outs := by
  obtain ⟨-, e⟩ | ⟨-, e⟩ := outputReading_cases s
  · rw [e]
    exact List.prefix_append _ _
  · rw [e]

theorem outs_isPrefix_runTrigger (s : State) : s.outs <+: (runTrigger s).outs := by
  have h := outs_isPrefix_outputReading (extract (latchWordCount (decodeWindow s)))
  rwa [extract_outs, latchWordCount_outs, decodeWindow_outs] at h

theorem outs_isPrefix_consumerStep (s : State) : s.outs <+: (consumerStep s).outs := by
  obtain ⟨-, e⟩ | ⟨-, e⟩ := consumerStep_cases s <;> rw [e]
  · exact outs_isPrefix_runTrigger (receivePush s)
  · exact List.prefix_rfl

/-- Settles O33: only OUTPUT, run on its own or by a fired trigger, writes the history, and it appends to it; every
operation without a case of its own below leaves `outs` as it is. -/
theorem outputHistoryOnlyGrows : Obligations.OutputHistoryOnlyGrows := by
  intro i s t he
  cases i
  case edge now =>
    rw [execEdge_next.1 he]
    split <;> exact List.prefix_rfl
  case cstep =>
    rw [(execCstep_next.1 he).2]
    exact outs_isPrefix_consumerStep s
  case regwr off data => rw [(execRegwr_next.1 he).2, regWrite_outs]
  case regrd off => rw [(execRegrd_next.1 he).2, recordRead_outs]
  case chrecv iv => rw [(execChrecv_next.1 he).2, chrecv_outs]
  case output a b =>
    cases he
    exact List.prefix_append _ _
  all_goals
    cases he
    exact List.prefix_rfl

end Machine
end Sys2Proof
end

section
/-! The storage spaces and who writes them (20_memory.md): what a host write can touch and which accesses it ignores or
refuses, the state each stimulus owns, and the order of the channel along every operation. -/

namespace Sys2Proof.Machine

variable {s t : State}

/-! ### Host accesses (20_memory.md R53, 45_sequencer_host.md R190) -/

/-- A host write touches EN, the flags and the thresholds, and nothing else. -/
theorem regWrite_writes (r : Option HostReg) (d : U32) (s : State) :
    regWrite r d s = { s with
      en := (regWrite r d s).en, badcfg := (regWrite r d s).badcfg, cfgwe := (regWrite r d s).cfgwe
      overrun := (regWrite r d s).overrun, t1 := (regWrite r d s).t1, t2 := (regWrite r d s).t2
      trig := (regWrite r d s).trig } := by
  obtain e | ⟨b, -, e, -⟩ | ⟨-, -, e⟩ | ⟨-, e⟩ | ⟨-, e⟩ | ⟨-, -, e⟩ | ⟨-, -, e⟩ | ⟨-, -, e⟩ :=
    regWrite_cases r d s <;> rw [e]
  rfl

/-- Only CTRL, STATUS, T1, T2 and TRIG take a write; the other registers and the reserved offsets ignore it. -/
theorem regWrite_of_not_writable {off : U8} (h : off ∉ [0x0C#8, 0x10#8, 0x14#8, 0x18#8, 0x1C#8]) (d : U32)
    (s : State) : regWrite (HostReg.ofOffset off) d s = s := by
  cases hr : HostReg.ofOffset off with
  | none => rfl
  | some r =>
    rw [← offset_of_ofOffset hr] at h
    cases r
    case ctrl | status | t1 | t2 | trig => exact absurd (by decide) h
    all_goals rfl

theorem execRegwr_of_misaligned {off : U8} (h : off.toNat % 4 ≠ 0) (d : U32) (s : State) :
    execRegwr off d s = .refused .misaligned :=
  if_neg (mt (aligned_iff off).1 h)

theorem execRegrd_of_misaligned {off : U8} (h : off.toNat % 4 ≠ 0) (s : State) :
    execRegrd off s = .refused .misaligned :=
  if_neg (mt (aligned_iff off).1 h)

/-- Settles O42: the alignment check comes first, and an aligned write to any other offset reaches no register. -/
theorem otherRegisterAccesses : Obligations.OtherRegisterAccesses := by
  intro off data s
  refine ⟨fun hoff => ⟨execRegwr_of_misaligned hoff data s, execRegrd_of_misaligned hoff s⟩, fun hoff hother => ?_⟩
  exact execRegwr_next.2 ⟨(aligned_iff off).2 hoff, (regWrite_of_not_writable hother data s).symm⟩

/-! ### The state each stimulus owns (20_memory.md R59) -/

/-- Settles O46, one stimulus at a time: EDGE captures or does nothing, CSTEP is a consumer step, REGWR writes what
`regWrite_writes` names, REGRD appends to `reads`, and
RESET is bound by the first clause alone. -/
theorem eachAgentWritesItsOwnState : Obligations.EachAgentWritesItsOwnState := by
  intro i s t hi he
  obtain ⟨now, rfl⟩ | rfl | ⟨off, data, rfl⟩ | ⟨off, rfl⟩ | rfl := Instr.isStimulus_cases hi
  · rw [execEdge_next.1 he]
    split <;>
      exact ⟨rfl, fun _ => ⟨fun _ => ⟨rfl, rfl⟩, fun h => absurd rfl (h now), fun _ => ⟨rfl, fun _ => rfl⟩,
        fun _ => rfl⟩⟩
  · rw [(execCstep_next.1 he).2]
    refine ⟨by simp, fun _ => ⟨fun h => absurd rfl h, fun _ => ?_, fun _ => ⟨by simp, fun h => absurd rfl h⟩,
      fun _ => consumerStep_reads s⟩⟩
    rw [consumerStep_last, consumerStep_chan]
    exact ⟨rfl, List.tail_suffix s.chan⟩
  · rw [(execRegwr_next.1 he).2, regWrite_writes]
    exact ⟨rfl, fun _ => ⟨fun _ => ⟨rfl, rfl⟩, fun _ => ⟨rfl, List.suffix_rfl⟩, fun h => absurd rfl (h off data),
      fun _ => rfl⟩⟩
  · rw [(execRegrd_next.1 he).2]
    exact ⟨rfl, fun _ => ⟨fun _ => ⟨rfl, rfl⟩, fun _ => ⟨rfl, List.suffix_rfl⟩, fun _ => ⟨rfl, fun _ => rfl⟩,
      fun h => absurd rfl (h off)⟩⟩
  · cases he
    exact ⟨rfl, fun h => absurd rfl h⟩

/-! ### The order of the channel (20_memory.md R60) -/

@[simp] theorem acceptedIntervals_append (ls ms : List Instr) :
    acceptedIntervals (ls ++ ms) = acceptedIntervals ls ++ acceptedIntervals ms := List.filterMap_append

@[simp] theorem receivedIntervals_append (ls ms : List Instr) :
    receivedIntervals (ls ++ ms) = receivedIntervals ls ++ receivedIntervals ms := List.filterMap_append

/-- The received intervals, then the queued ones, are the accepted ones in order: what R60 says of a state. -/
def ChannelInOrder (s : State) : Prop :=
  receivedIntervals s.labels ++ s.chan = acceptedIntervals s.labels

/-- An operation keeps the order when it leaves the channel and its label neither accepts nor receives. -/
theorem ChannelInOrder.other_label (h : ChannelInOrder s) {l : Instr} (hchan : t.chan = s.chan)
    (hlabels : t.labels = s.labels ++ [l]) (hr : receivedIntervals [l] = []) (ha : acceptedIntervals [l] = []) :
    ChannelInOrder t := by
  simpa [ChannelInOrder, hchan, hlabels, hr, ha] using h

/-- CHSEND appends the interval to both sides when it accepts it, and to neither when it drops it. -/
theorem inOrder_chsend (h : ChannelInOrder s) (iv : U32) : ChannelInOrder (chsend iv s) := by
  unfold ChannelInOrder at h ⊢
  rw [chsend_chan, chsend_labels, receivedIntervals_append, acceptedIntervals_append, ← h, chanPush]
  cases chanAccepts s <;> simp [receivedIntervals, acceptedIntervals]

/-- CHRECV moves the head of the channel to the end of the received intervals. -/
theorem inOrder_chrecv (h : ChannelInOrder s) (hne : s.chan ≠ []) : ChannelInOrder (chrecv s) := by
  obtain ⟨iv, rest, hc⟩ := List.exists_cons_of_ne_nil hne
  unfold ChannelInOrder at h ⊢
  rw [chrecv_chan, chrecv_labels, receivedIntervals_append, acceptedIntervals_append, ← h]
  simp [receivedIntervals, acceptedIntervals, chanHead, hc]

theorem inOrder_captureEdge (h : ChannelInOrder s) (now : U32) : ChannelInOrder (captureEdge now s) :=
  have hlast : ChannelInOrder { s with last := now } := h
  inOrder_chsend hlast (interval now s)

theorem inOrder_push (h : ChannelInOrder s) (iv : U32) : ChannelInOrder (push iv s) :=
  h.other_label rfl rfl rfl rfl

theorem inOrder_trigchk (h : ChannelInOrder s) (iv : U32) : ChannelInOrder (trigchk iv s) :=
  h.other_label rfl rfl rfl rfl

theorem inOrder_winrd (h : ChannelInOrder s) (k : Nat) : ChannelInOrder (winrd k s) :=
  h.other_label rfl rfl rfl rfl

theorem inOrder_classifyOp (h : ChannelInOrder s) (x : U32) : ChannelInOrder (classifyOp x s) :=
  h.other_label rfl rfl rfl rfl

theorem inOrder_decinit (h : ChannelInOrder s) (a : U16) : ChannelInOrder (decinit a s) :=
  h.other_label rfl rfl rfl rfl

theorem inOrder_pairstep (h : ChannelInOrder s) (sym : Sym) : ChannelInOrder (pairstep sym s) :=
  h.other_label rfl rfl rfl rfl

theorem inOrder_emitchk (h : ChannelInOrder s) : ChannelInOrder (emitchk s) :=
  h.other_label rfl rfl rfl rfl

theorem inOrder_extract (h : ChannelInOrder s) : ChannelInOrder (extract s) :=
  h.other_label rfl rfl rfl rfl

theorem inOrder_output (h : ChannelInOrder s) (a b : U64) : ChannelInOrder (output a b s) :=
  h.other_label rfl rfl rfl rfl

theorem inOrder_regWrite (h : ChannelInOrder s) (r : Option HostReg) (d : U32) : ChannelInOrder (regWrite r d s) := by
  rw [regWrite_writes]
  exact h

theorem inOrder_decodeSample (h : ChannelInOrder s) (k : Nat) : ChannelInOrder (decodeSample s k) :=
  inOrder_emitchk (inOrder_pairstep (inOrder_classifyOp (inOrder_winrd h k) _) _)

theorem inOrder_decodeWindow (h : ChannelInOrder s) : ChannelInOrder (decodeWindow s) :=
  List.foldlRecOn _ decodeSample (inOrder_decinit h _) fun _ hu k _ => inOrder_decodeSample hu k

theorem inOrder_runTrigger (h : ChannelInOrder s) : ChannelInOrder (runTrigger s) := by
  have hlatch : ChannelInOrder (latchWordCount (decodeWindow s)) := inOrder_decodeWindow h
  unfold runTrigger
  obtain ⟨-, e⟩ | ⟨-, e⟩ := outputReading_cases (extract (latchWordCount (decodeWindow s))) <;> rw [e]
  · exact inOrder_output (inOrder_extract hlatch) _ _
  · exact inOrder_extract hlatch

theorem inOrder_consumerStep (h : ChannelInOrder s) (hne : s.chan ≠ []) : ChannelInOrder (consumerStep s) := by
  have hreceive : ChannelInOrder (receivePush s) := inOrder_trigchk (inOrder_push (inOrder_chrecv h hne) _) _
  obtain ⟨-, e⟩ | ⟨-, e⟩ := consumerStep_cases s <;> rw [e]
  · exact inOrder_runTrigger hreceive
  · exact hreceive

theorem chan_ne_nil_of_consumerEnabled (h : consumerEnabled s = true) : s.chan ≠ [] := by
  intro hc
  simp [consumerEnabled, hc] at h

/-- Settles O15: CHSEND grows both sides alike, CHRECV moves an interval from the channel to the received ones, EDGE and
CSTEP are made of these two and of labels that do neither, and no other operation touches the channel. -/
theorem receivedThenQueuedIsAccepted : Obligations.ReceivedThenQueuedIsAccepted := by
  intro i s t hi he (h : ChannelInOrder s)
  change ChannelInOrder t
  cases i
  case edge now =>
    rw [execEdge_next.1 he]
    split
    · exact inOrder_captureEdge h now
    · exact h
  case cstep =>
    obtain ⟨hon, rfl⟩ := execCstep_next.1 he
    exact inOrder_consumerStep h (chan_ne_nil_of_consumerEnabled hon)
  case regwr off data =>
    rw [(execRegwr_next.1 he).2]
    exact inOrder_regWrite h _ data
  case regrd off =>
    rw [(execRegrd_next.1 he).2]
    exact h
  case reset => exact absurd rfl hi
  case chrecv iv =>
    obtain ⟨hne, rfl⟩ := execChrecv_next.1 he
    exact inOrder_chrecv h hne
  all_goals cases he
  case chsend acc iv => exact inOrder_chsend h iv
  case push slot iv => exact inOrder_push h iv
  case trigchk fired anchor iv => exact inOrder_trigchk h iv
  case winrd k x => exact inOrder_winrd h k.toNat
  case classify sym x => exact inOrder_classifyOp h x
  case decinit anchor => exact inOrder_decinit h anchor
  case pairstep sym prev bp closed bitset ov => exact inOrder_pairstep h sym
  case emitchk emitted slot value => exact inOrder_emitchk h
  case extract n wc => exact inOrder_extract h
  case output a b => exact inOrder_output h a b

end Sys2Proof.Machine
end

section
/-! Decoding and encoding (30_encoding.md R71 to R80): what `decode` answers to a first word, by its OP, its must-be-zero
bits and its operand fields, and that decoding and encoding invert each other. -/

namespace Sys2Proof

/-! ### The branches of the decoder -/

/-- The bits of A and D that must be 0 are 0 (R85). -/
def Opcode.ZeroBits (o : Opcode) (a : U24) (d : U32) : Prop := a &&& o.auxZero = 0#24 ∧ d &&& o.dataZero = 0#32

variable {w : U64} {o : Opcode}

theorem decode_of_reservedOp (ho : Opcode.ofByte (opOf w) = none) (rest : List U64) :
    decode (w :: rest) = .error .reservedOp := by
  simp [decode, ho]

theorem decode_of_not_zeroBits (ho : Opcode.ofByte (opOf w) = some o) (hz : ¬ o.ZeroBits (auxOf w) (dataOf w))
    (rest : List U64) : decode (w :: rest) = .error .mustBeZero := by
  rw [Opcode.ZeroBits] at hz
  simp only [decode, ho, if_neg hz]

theorem decode_of_zeroBits (ho : Opcode.ofByte (opOf w) = some o) (hz : o.ZeroBits (auxOf w) (dataOf w))
    (rest : List U64) : decode (w :: rest) = decodeOperands o (auxOf w) (dataOf w) rest := by
  rw [Opcode.ZeroBits] at hz
  simp only [decode, ho, if_pos hz]

theorem decode_mkWord {a : U24} {d : U32} (hz : o.ZeroBits a d) (rest : List U64) :
    decode (mkWord o.byte a d :: rest) = decodeOperands o a d rest := by
  have h := decode_of_zeroBits (w := mkWord o.byte a d) (o := o) (by simp) (by simpa using hz) rest
  rwa [auxOf_mkWord, dataOf_mkWord] at h

/-- What decodes names an operation code, has its must-be-zero bits 0 and has readable operand fields. -/
theorem decode_ok {ws : List U64} {i : Instr} {rest : List U64} (h : decode ws = .ok (i, rest)) :
    ∃ w tail o, ws = w :: tail ∧ opOf w = o.byte ∧ o.ZeroBits (auxOf w) (dataOf w) ∧
      decodeOperands o (auxOf w) (dataOf w) tail = .ok (i, rest) := by
  cases ws with
  | nil => cases h
  | cons w tail =>
    cases ho : Opcode.ofByte (opOf w) with
    | none =>
      rw [decode_of_reservedOp ho] at h
      cases h
    | some o =>
      by_cases hz : o.ZeroBits (auxOf w) (dataOf w)
      · rw [decode_of_zeroBits ho hz] at h
        exact ⟨w, tail, o, rfl, (byte_of_ofByte ho).symm, hz, h⟩
      · rw [decode_of_not_zeroBits ho hz] at h
        cases h

/-! ### Decoding what was encoded -/

theorem zeroBits_of_instr (i : Instr) : i.opcode.ZeroBits i.aux i.data := by
  constructor
  · cases i <;> simp [Instr.aux, Instr.opcode, Opcode.auxZero]
  · cases i <;> simp [Instr.data, Instr.opcode, Opcode.dataZero]

/-- The operand fields of a well-formed operation read back as the operation, its payload words taken off. -/
theorem decodeOperands_of_instr {i : Instr} (h : i.wf = true) (rest : List U64) :
    decodeOperands i.opcode i.aux i.data (i.payload ++ rest) = .ok (i, rest) := by
  cases i
  case chsend acc iv =>
    simp only [decodeOperands, Instr.opcode, Instr.aux, Instr.data, aux1_low]
    rfl
  case trigchk fired anchor iv =>
    have hcheck : fired = true ∨ anchor = 0#16 := by simpa [Instr.wf] using h
    simp only [decodeOperands, Instr.opcode, Instr.aux, Instr.data, auxFlag_flag, auxFlag_index, if_pos hcheck]
    rfl
  case pairstep sym prev bp closed bitset ov =>
    simp only [decodeOperands, Instr.opcode, Instr.aux, pairAux_sym, pairAux_prev, pairAux_bp, pairAux_closed,
      pairAux_bitset, pairAux_ov, symOfCode_code, prevOfCode_code]
    rfl
  case emitchk emitted slot value =>
    cases emitted
    case true =>
      simp only [decodeOperands, Instr.opcode, Instr.aux, auxFlag_flag, auxFlag_index, if_true]
      rfl
    case false =>
      obtain ⟨rfl, rfl⟩ : slot = 0#16 ∧ value = 0#64 := by simpa [Instr.wf] using h
      rfl
  case extract n wc =>
    have hcheck : n ≠ 3#2 := by simpa [Instr.wf] using h
    simp [decodeOperands, Instr.opcode, Instr.aux, Instr.payload, hcheck]
  all_goals simp [decodeOperands, Instr.opcode, Instr.aux, Instr.data, Instr.payload]

/-- Settles O1: the first word carries the operation code, passes the must-be-zero check, and its operand fields and the
payload words read back as the operation. -/
theorem decodeInvertsEncode : Obligations.DecodeInvertsEncode := by
  intro i rest hi
  rw [encode, List.cons_append, decode_mkWord (zeroBits_of_instr i)]
  exact decodeOperands_of_instr hi rest

/-! ### Encoding what was decoded -/

/-- What the operand fields read as is well formed and has those fields: the bits of A and D that are not read are the
must-be-zero ones. -/
theorem decodeOperands_ok {a : U24} {d : U32} {tail rest : List U64} {i : Instr} (hz : o.ZeroBits a d)
    (h : decodeOperands o a d tail = .ok (i, rest)) :
    i.wf = true ∧ i.opcode = o ∧ i.aux = a ∧ i.data = d ∧ i.payload ++ rest = tail := by
  obtain ⟨ha, hd⟩ := hz
  cases o
  case edge | chrecv =>
    cases h
    exact ⟨rfl, rfl, (aux_eq_zero ha).symm, rfl, rfl⟩
  case cstep | reset =>
    cases h
    exact ⟨rfl, rfl, (aux_eq_zero ha).symm, (data_eq_zero hd).symm, rfl⟩
  case regwr =>
    cases h
    exact ⟨rfl, rfl, aux8_fields ha, rfl, rfl⟩
  case regrd =>
    cases h
    exact ⟨rfl, rfl, aux8_fields ha, (data_eq_zero hd).symm, rfl⟩
  case chsend =>
    cases h
    exact ⟨rfl, rfl, aux1_fields ha, rfl, rfl⟩
  case push | winrd =>
    cases h
    exact ⟨rfl, rfl, aux16_fields ha, rfl, rfl⟩
  case trigchk =>
    simp only [decodeOperands] at h
    split at h
    next hcheck =>
      cases h
      exact ⟨by simpa [Instr.wf] using hcheck, rfl, auxFlag_fields ha, rfl, rfl⟩
    · cases h
  case classify =>
    simp only [decodeOperands] at h
    split at h
    next s hs =>
      cases h
      refine ⟨rfl, rfl, ?_, rfl, rfl⟩
      rw [Instr.aux, code_of_symOfCode hs]
      exact aux2_fields ha
    · cases h
  case decinit =>
    cases h
    exact ⟨rfl, rfl, aux16_fields ha, (data_eq_zero hd).symm, rfl⟩
  case pairstep =>
    simp only [decodeOperands] at h
    split at h
    next s p hs hp =>
      cases h
      refine ⟨rfl, rfl, ?_, (data_eq_zero hd).symm, rfl⟩
      rw [Instr.aux, code_of_symOfCode hs, code_of_prevOfCode hp]
      exact pairAux_fields ha
    · cases h
    · cases h
  case emitchk =>
    simp only [decodeOperands] at h
    split at h
    next hemit =>
      split at h
      · cases h
        refine ⟨rfl, rfl, ?_, (data_eq_zero hd).symm, rfl⟩
        rw [Instr.aux, ← hemit]
        exact auxFlag_fields ha
      · cases h
    next hemit =>
      split at h
      next hslot =>
        cases h
        refine ⟨rfl, rfl, ?_, (data_eq_zero hd).symm, rfl⟩
        have hfields := auxFlag_fields ha
        rw [Bool.eq_false_iff.2 hemit, hslot] at hfields
        exact hfields
      · cases h
  case extract =>
    simp only [decodeOperands] at h
    split at h
    · cases h
    next hcount =>
      cases h
      exact ⟨by simpa [Instr.wf] using hcount, rfl, extractAux_fields ha, (data_eq_zero hd).symm, rfl⟩
  case output =>
    simp only [decodeOperands] at h
    split at h
    · cases h
      exact ⟨rfl, rfl, (aux_eq_zero ha).symm, (data_eq_zero hd).symm, rfl⟩
    · cases h

/-- Settles O2: the first word is made of its operation code and its two fields, and the operation read from them has
exactly these. -/
theorem encodeInvertsDecode : Obligations.EncodeInvertsDecode := by
  intro ws i rest h
  obtain ⟨w, tail, o, rfl, hop, hz, hread⟩ := decode_ok h
  obtain ⟨hwf, ho, ha, hd, hp⟩ := decodeOperands_ok hz hread
  refine ⟨hwf, ?_⟩
  rw [encode, ho, ha, hd, ← hop, mkWord_fields, List.cons_append, hp]

end Sys2Proof
end

section
/-! Which words the decoder accepts (30_encoding.md R77, R78, R85): the match and mask of a row are its operation code
and its must-be-zero bits, and past these only the value checks and the missing payload words are left to fail. -/

namespace Sys2Proof

open Machine

variable {w : U64} {o : Opcode}

/-! ### The rows of R85 -/

@[simp] theorem opOf_and (v w : U64) : opOf (v &&& w) = opOf v &&& opOf w := BitVec.extractLsb'_and

@[simp] theorem auxOf_and (v w : U64) : auxOf (v &&& w) = auxOf v &&& auxOf w := BitVec.extractLsb'_and

@[simp] theorem dataOf_and (v w : U64) : dataOf (v &&& w) = dataOf v &&& dataOf w := BitVec.extractLsb'_and

theorem word_eq_iff (v w : U64) : v = w ↔ opOf v = opOf w ∧ auxOf v = auxOf w ∧ dataOf v = dataOf w :=
  ⟨fun h => by simp [h], fun ⟨hop, ha, hd⟩ => word_ext hop ha hd⟩

/-- A row's mask keeps all of OP and the bits that must be 0, and its match value holds OP alone. -/
theorem matches_iff (w : U64) (o : Opcode) :
    w &&& o.mask = o.pattern ↔ opOf w = o.byte ∧ o.ZeroBits (auxOf w) (dataOf w) := by
  have hop : opOf w &&& 0xFF#8 = opOf w := BitVec.and_allOnes
  simp [word_eq_iff, Opcode.mask, Opcode.pattern, Opcode.ZeroBits, hop]

theorem rows_eq_tableOfR85 : Opcode.all.map (fun o => (o.pattern, o.mask)) = tableOfR85 := by decide

theorem Opcode.mem_all (o : Opcode) : o ∈ Opcode.all := by cases o <;> decide

theorem matches_some_row_iff (w : U64) :
    (∃ p ∈ tableOfR85, w &&& p.2 = p.1) ↔ ∃ o, opOf w = Opcode.byte o ∧ o.ZeroBits (auxOf w) (dataOf w) := by
  simp [← rows_eq_tableOfR85, Opcode.mem_all, matches_iff]

/-! ### The value checks -/

/-- The value checks of R76 and R78 on the A field of an operation code's word. -/
def Opcode.ChecksPass (o : Opcode) (a : U24) : Prop :=
  match o with
  | .trigchk | .emitchk => a.getLsbD 23 = false → a.extractLsb' 0 16 = 0#16
  | .classify | .extract => a.extractLsb' 0 2 ≠ 3#2
  | .pairstep => a.extractLsb' 0 2 ≠ 3#2 ∧ a.extractLsb' 2 2 ≠ 3#2
  | .edge | .cstep | .regwr | .regrd | .reset | .chsend | .chrecv | .push | .winrd | .decinit | .output => True

theorem auxOf_flag (w : U64) : (auxOf w).getLsbD 23 = w.getLsbD 55 := by simp [auxOf]

theorem extractLsb'_auxOf (w : U64) {i n : Nat} (h : i + n ≤ 24) :
    (auxOf w).extractLsb' i n = w.extractLsb' (32 + i) n := by
  apply BitVec.eq_of_getLsbD_eq
  intro j hj
  have hin : i + j < 24 := by omega
  simp [auxOf, hin, Nat.add_assoc]

/-- The value checks look at bits of the A field only. -/
theorem valueChecks_iff (hop : opOf w = o.byte) : ValueChecks w ↔ o.ChecksPass (auxOf w) := by
  have hsym : (auxOf w).extractLsb' 0 2 = w.extractLsb' 32 2 := extractLsb'_auxOf w (by decide)
  have hprev : (auxOf w).extractLsb' 2 2 = w.extractLsb' 34 2 := extractLsb'_auxOf w (by decide)
  have hindex : (auxOf w).extractLsb' 0 16 = w.extractLsb' 32 16 := extractLsb'_auxOf w (by decide)
  have hflag : (auxOf w)[23] = w[55] := auxOf_flag w
  cases o <;> simp [ValueChecks, Opcode.ChecksPass, hop, Opcode.byte, hsym, hprev, hindex, hflag]

theorem spellsOperation_iff (w : U64) : SpellsOperation w ↔
    ∃ o, opOf w = Opcode.byte o ∧ o.ZeroBits (auxOf w) (dataOf w) ∧ o.ChecksPass (auxOf w) := by
  rw [SpellsOperation, matches_some_row_iff]
  constructor
  · rintro ⟨⟨o, hop, hz⟩, hchecks⟩
    exact ⟨o, hop, hz, (valueChecks_iff hop).1 hchecks⟩
  · rintro ⟨o, hop, hz, hchecks⟩
    exact ⟨⟨o, hop, hz⟩, (valueChecks_iff hop).2 hchecks⟩

/-! ### Acceptance -/

/-- Past the value checks, only a missing payload word stops the decoder. -/
theorem decodeOperands_of_checksPass (hop : opOf w = o.byte) (h : o.ChecksPass (auxOf w)) (d : U32) (rest : List U64) :
    (∃ i r, decodeOperands o (auxOf w) d rest = .ok (i, r)) ∨
      (decodeOperands o (auxOf w) d rest = .error .missingPayload ∧ rest.length + 1 < wordCount w) := by
  cases o
  case trigchk =>
    have hcheck : (auxOf w).getLsbD 23 = true ∨ (auxOf w).extractLsb' 0 16 = 0#16 := by
      rw [← Bool.not_eq_false]
      exact Decidable.not_or_of_imp h
    exact .inl ⟨_, _, if_pos hcheck⟩
  case classify =>
    obtain ⟨s, hs⟩ := Option.ne_none_iff_exists'.1 (mt (symOfCode_eq_none_iff _).1 h)
    exact .inl ⟨_, _, by simp only [decodeOperands, hs]; rfl⟩
  case pairstep =>
    obtain ⟨hsym, hprev⟩ := h
    obtain ⟨s, hs⟩ := Option.ne_none_iff_exists'.1 (mt (symOfCode_eq_none_iff _).1 hsym)
    obtain ⟨p, hp⟩ := Option.ne_none_iff_exists'.1 (mt (prevOfCode_eq_none_iff _).1 hprev)
    exact .inl ⟨_, _, by simp only [decodeOperands, hs, hp]; rfl⟩
  case extract => exact .inl ⟨_, _, if_neg h⟩
  case emitchk =>
    cases hemit : (auxOf w).getLsbD 23
    case false => exact .inl ⟨_, _, by simp only [decodeOperands, hemit, h hemit]; rfl⟩
    case true =>
      cases rest with
      | nil => exact .inr ⟨by simp only [decodeOperands, hemit]; rfl, by simp only [wordCount, hop, hemit]; decide⟩
      | cons v rest => exact .inl ⟨_, _, by simp only [decodeOperands, hemit]; rfl⟩
  case output =>
    have hcount : wordCount w = 3 := by simp [wordCount, hop, Opcode.byte]
    rcases rest with _ | ⟨x, _ | ⟨y, rest⟩⟩
    · exact .inr ⟨rfl, by simp [hcount]⟩
    · exact .inr ⟨rfl, by simp [hcount]⟩
    · exact .inl ⟨_, _, rfl⟩
  all_goals exact .inl ⟨_, _, rfl⟩

/-- A failed value check is not reported as a missing payload word. -/
theorem decodeOperands_of_not_checksPass {a : U24} (h : ¬ o.ChecksPass a) (d : U32) (rest : List U64) :
    ∃ e, decodeOperands o a d rest = .error e ∧ e ≠ .missingPayload := by
  cases o
  case trigchk =>
    obtain ⟨hfired, hanchor⟩ := Classical.not_imp.1 h
    exact ⟨.mustBeZero, by simp only [decodeOperands, hfired, hanchor]; rfl, by decide⟩
  case emitchk =>
    obtain ⟨hemit, hslot⟩ := Classical.not_imp.1 h
    exact ⟨.mustBeZero, by simp only [decodeOperands, hemit, hslot]; rfl, by decide⟩
  case classify =>
    have hs := (symOfCode_eq_none_iff _).2 (not_not.1 h)
    exact ⟨.reservedSym, by simp only [decodeOperands, hs], by decide⟩
  case pairstep =>
    cases hs : Sym.ofCode (a.extractLsb' 0 2) with
    | none => exact ⟨.reservedSym, by simp only [decodeOperands, hs], by decide⟩
    | some s =>
      have hp : Prev.ofCode (a.extractLsb' 2 2) = none := by
        refine (prevOfCode_eq_none_iff _).2 (by_contra fun hprev => h ⟨fun hsym => ?_, hprev⟩)
        simp [(symOfCode_eq_none_iff _).2 hsym] at hs
      exact ⟨.reservedPrev, by simp only [decodeOperands, hs, hp], by decide⟩
  case extract => exact ⟨.reservedCount, if_pos (not_not.1 h), by decide⟩
  all_goals exact absurd trivial h

theorem decode_of_spells (h : SpellsOperation w) (rest : List U64) :
    (∃ i r, decode (w :: rest) = .ok (i, r)) ∨
      (decode (w :: rest) = .error .missingPayload ∧ rest.length + 1 < wordCount w) := by
  obtain ⟨o, hop, hz, hchecks⟩ := (spellsOperation_iff w).1 h
  rw [decode_of_zeroBits (by rw [hop, ofByte_byte]) hz]
  exact decodeOperands_of_checksPass hop hchecks _ rest

theorem decode_of_not_spells (h : ¬ SpellsOperation w) (rest : List U64) :
    ∃ e, decode (w :: rest) = .error e ∧ e ≠ .missingPayload := by
  cases ho : Opcode.ofByte (opOf w) with
  | none => exact ⟨.reservedOp, decode_of_reservedOp ho rest, by decide⟩
  | some o =>
    by_cases hz : o.ZeroBits (auxOf w) (dataOf w)
    · rw [decode_of_zeroBits ho hz]
      refine decodeOperands_of_not_checksPass (fun hchecks => h ?_) _ rest
      exact (spellsOperation_iff w).2 ⟨o, (byte_of_ofByte ho).symm, hz, hchecks⟩
    · exact ⟨.mustBeZero, decode_of_not_zeroBits ho hz rest, by decide⟩

/-- Settles O3: a word that spells no operation is turned away whatever follows it, and one that does is read unless a
payload word is missing. -/
theorem decodeAcceptsByMatchAndMask : Obligations.DecodeAcceptsByMatchAndMask := by
  refine ⟨rows_eq_tableOfR85, fun w rest hlength => ⟨?_, fun hspells => ?_⟩⟩
  · rintro ⟨i, r, hok⟩
    by_contra hspells
    obtain ⟨e, herror, -⟩ := decode_of_not_spells hspells rest
    rw [hok] at herror
    cases herror
  · obtain hok | ⟨-, hshort⟩ := decode_of_spells hspells rest
    · exact hok
    · omega

/-! ### The length of an operation (R77) -/

theorem wordCount_eq (w : U64) :
    wordCount w = if opOf w = 0x18#8 ∧ w.getLsbD 55 = true then 2 else if opOf w = 0x1A#8 then 3 else 1 := by
  have hemitchk : Opcode.emitchk.byte = 0x18#8 := rfl
  have houtput : Opcode.output.byte = 0x1A#8 := rfl
  rw [wordCount, hemitchk, houtput, auxOf_flag]
  by_cases hop : opOf w = 0x18#8
  · cases w.getLsbD 55 <;> simp [hop]
  · simp [hop]

/-- The encoder writes as many words as the first word alone says. -/
theorem encode_length {i : Instr} (h : i.wf = true) :
    (encode i).length = wordCount (mkWord i.opcode.byte i.aux i.data) := by
  cases i with
  | edge now => exact Laws.LengthByFirstWord.edge now h
  | cstep => exact Laws.LengthByFirstWord.cstep h
  | regwr off data => exact Laws.LengthByFirstWord.regwr off data h
  | regrd off => exact Laws.LengthByFirstWord.regrd off h
  | reset => exact Laws.LengthByFirstWord.reset h
  | chsend acc iv => exact Laws.LengthByFirstWord.chsend acc iv h
  | chrecv iv => exact Laws.LengthByFirstWord.chrecv iv h
  | push slot iv => exact Laws.LengthByFirstWord.push slot iv h
  | trigchk fired anchor iv => exact Laws.LengthByFirstWord.trigchk fired anchor iv h
  | winrd k x => exact Laws.LengthByFirstWord.winrd k x h
  | classify sym x => exact Laws.LengthByFirstWord.classify sym x h
  | decinit anchor => exact Laws.LengthByFirstWord.decinit anchor h
  | pairstep sym prev bp closed bitset ov => exact Laws.LengthByFirstWord.pairstep sym prev bp closed bitset ov h
  | emitchk emitted slot value => exact Laws.LengthByFirstWord.emitchk emitted slot value h
  | extract n wc => exact Laws.LengthByFirstWord.extract n wc h
  | output a b => exact Laws.LengthByFirstWord.output a b h

/-- Settles O4: what decodes is the encoding of its operation, and the encoder's length is the one the first word
gives. -/
theorem lengthFromFirstWord : Obligations.LengthFromFirstWord := by
  intro w rest r i h
  obtain ⟨hwf, hwords⟩ := encodeInvertsDecode (w :: rest) i r h
  have hfirst : mkWord i.opcode.byte i.aux i.data = w := (List.cons.inj hwords).1
  calc (w :: rest).length = (encode i).length + r.length := by rw [← hwords, List.length_append]
    _ = r.length + wordCount w := by rw [encode_length hwf, hfirst, Nat.add_comm]
    _ = _ := by rw [wordCount_eq]

/-- Settles O5, by running the decoder on the words. -/
theorem specWordsDecode : Obligations.SpecWordsDecode := ⟨rfl, rfl, rfl, rfl, rfl, rfl, rfl⟩

end Sys2Proof
end

section
/-! What a step answers to the words at the front of the program (30_encoding.md R70, R78, R79, R83). -/

namespace Sys2Proof.Machine

variable {s : State}

/-! ### Taking the next operation -/

/-- A runnable state whose program starts with words that decode to a stimulus operation runs it; a label is turned
away. -/
theorem fetch_of_decode_ok {i : Instr} {rest : List U64} (hr : Runnable s) (hd : decode s.stim = .ok (i, rest)) :
    fetch s = if i.isStimulus then .next (i, { s with stim := rest }) else .refused .notStimulus := by
  obtain ⟨hrefused, hcfg⟩ := hr
  have hne : s.stim.isEmpty = false := by
    cases hs : s.stim
    · rw [hs] at hd
      cases hd
    · rfl
  simp [fetch, hrefused, hcfg, hne, hd]

theorem fetch_of_decode_error {w : U64} {rest : List U64} {e : DecodeError} (hr : Runnable s)
    (hs : s.stim = w :: rest) (hd : decode (w :: rest) = .error e) : fetch s = .refused (refusalOf e) := by
  obtain ⟨hrefused, hcfg⟩ := hr
  simp [fetch, hrefused, hcfg, hs, hd]

theorem step_of_decode_error {w : U64} {rest : List U64} {e : DecodeError} (hr : Runnable s)
    (hs : s.stim = w :: rest) (hd : decode (w :: rest) = .error e) : step s = .refused (refusalOf e) := by
  simp [step, fetch_of_decode_error hr hs hd]

theorem step_of_label {i : Instr} {rest : List U64} (hr : Runnable s) (hd : decode s.stim = .ok (i, rest))
    (hi : i.isStimulus = false) : step s = .refused .notStimulus := by
  simp [step, fetch_of_decode_ok hr hd, hi]

/-- Settles O6: in a runnable state `fetch` hands over the operation that decodes, with its words taken off. -/
theorem stepRunsTheDecodedStimulus : Obligations.StepRunsTheDecodedStimulus := by
  intro s i rest hr hd hi
  simp [step, fetch_of_decode_ok hr hd, hi]

/-! ### The refusals of R217 -/

theorem refusalOf_eq_encoding {e : DecodeError} (h : e ≠ .missingPayload) : refusalOf e = .encoding := by
  cases e
  case missingPayload => exact absurd rfl h
  all_goals rfl

/-- Settles O7: the decoder turns such a word away for another reason than a missing payload word, and every other
reason is refused as ENCODING. -/
theorem wordsThatSpellNothingAreRefused : Obligations.WordsThatSpellNothingAreRefused := by
  intro s w rest hr hs hspells
  obtain ⟨e, hd, he⟩ := decode_of_not_spells hspells rest
  rw [step_of_decode_error hr hs hd, refusalOf_eq_encoding he]

/-- The codes from 0x10 up are the labels' (R79, R84). -/
theorem isStimulus_eq_false_of_le_byte {o : Opcode} (h : 0x10#8 ≤ o.byte) : o.isStimulus = false := by
  revert h
  cases o <;> decide

/-- Settles O8: with its payload words the word is read as an operation of its own code, a label; without them it is
refused as a label all the same. -/
theorem labelWordsAreNotStimuli : Obligations.LabelWordsAreNotStimuli := by
  intro s w rest hr hs hspells hlabel
  obtain ⟨i, r, hd⟩ | ⟨hd, -⟩ := decode_of_spells hspells rest
  · obtain ⟨-, hwords⟩ := encodeInvertsDecode (w :: rest) i r hd
    have hop : i.opcode.byte = opOf w := by rw [← (List.cons.inj hwords).1, opOf_mkWord]
    exact step_of_label hr (hs ▸ hd) (isStimulus_eq_false_of_le_byte (hop ▸ hlabel))
  · exact step_of_decode_error hr hs hd

/-! ### The pseudo-instruction iv (R83) -/

theorem exec_edge_of_enabled (hen : s.en = true) (now : U32) : exec (.edge now) s = .next (captureEdge now s) :=
  execEdge_next.2 (by rw [hen]; rfl)

theorem exec_cstep_of_ready {iv : U32} {rest : List U32} (h : Ready s iv rest) :
    exec .cstep s = .next (consumerStep s) := by
  obtain ⟨hen, hrefused, hchan⟩ := h
  exact execCstep_next.2 ⟨by simp [consumerEnabled, hen, hrefused, hchan], rfl⟩

theorem consumerStep_ring_of_ready {iv : U32} {rest : List U32} (hcursor : s.cursor < s.cfg.n)
    (h : Ready s iv rest) : (consumerStep s).ring = s.ring.set s.cursor iv := by
  obtain ⟨-, -, hchan⟩ := h
  rw [consumerStep_ring, ringWrite_of_lt _ hcursor, chanHead, hchan, List.headD_cons]

/-- With an empty channel, an edge x after the last one leaves the consumer ready with the interval x. -/
theorem ready_captureEdge (hen : s.en = true) (hrefused : s.refused = false) (hchan : s.chan = [])
    (hroom : 1 ≤ s.cfg.c) (x : U32) : Ready (captureEdge (s.last + x) s) x [] := by
  refine ⟨hen, hrefused, ?_⟩
  rw [captureEdge_chan, chanPush_of_room _ (by rw [hchan]; exact hroom), hchan, List.nil_append, add_sub_cancel_left]

/-- Settles O48: the edge at `last + x` queues the interval x alone, and the CSTEP after it takes it to the slot at the
cursor, whether or not it fires the trigger. -/
theorem ivDeliversExactlyTheInterval : Obligations.IvDeliversExactlyTheInterval := by
  intro s x hw hen hrefused hchan hroom
  have hready := ready_captureEdge hen hrefused hchan hroom x
  obtain ⟨-, hcursor, -⟩ := hw
  refine ⟨consumerStep (captureEdge (s.last + x) s), ?_, ?_, ?_, ?_⟩
  · simp only [expandStmt, execAll, exec_edge_of_enabled hen, exec_cstep_of_ready hready]
  · exact consumerStep_ring_of_ready hcursor hready
  · obtain ⟨-, -, hqueued⟩ := hready
    rw [consumerStep_chan, hqueued, List.tail_cons]
  · rw [consumerStep_last, captureEdge_last, timeAfter]

end Sys2Proof.Machine
end

section
/-! The edge timer and the interval channel (41_edge_channel.md R100 to R104): what CHSEND does with room and without,
what EDGE makes of it, and what CHRECV removes. -/

namespace Sys2Proof.Machine

variable {s : State}

/-! ### CHSEND -/

theorem chsend_of_room (iv : U32) (h : s.chan.length < s.cfg.c) :
    chsend iv s = { s with chan := s.chan ++ [iv], labels := s.labels ++ [.chsend true iv] } := by
  rw [chsend, chanPush_of_room iv h, (chanAccepts_iff s).2 h]

theorem chsend_of_full (iv : U32) (h : s.cfg.c ≤ s.chan.length) :
    chsend iv s = { s with labels := s.labels ++ [.chsend false iv] } := by
  have hreject : chanAccepts s = false := Bool.eq_false_iff.mpr (mt (chanAccepts_iff s).1 (Nat.not_lt.mpr h))
  rw [chsend, chanPush_of_full iv h, hreject]

theorem exec_chsend (acc : Bool) (iv : U32) (s : State) : exec (.chsend acc iv) s = .next (chsend iv s) := rfl

/-- Settles O12: the operation is the shared send, with room and without. -/
theorem chsendEnqueuesOrDrops : Obligations.ChsendEnqueuesOrDrops := by
  intro acc iv s
  constructor
  · intro hroom
    rw [exec_chsend, chsend_of_room iv hroom]
  · intro hfull
    rw [exec_chsend, chsend_of_full iv hfull]

/-! ### CHRECV -/

theorem exec_chrecv_of_empty (x : U32) (h : s.chan = []) : exec (.chrecv x) s = .fault .consumerHeld :=
  if_pos (List.isEmpty_iff.2 h)

theorem exec_chrecv_of_ne_nil (x : U32) (h : s.chan ≠ []) : exec (.chrecv x) s = .next (chrecv s) :=
  execChrecv_next.2 ⟨h, rfl⟩

theorem chrecv_of_cons {iv : U32} {rest : List U32} (h : s.chan = iv :: rest) :
    chrecv s = { s with chan := rest, labels := s.labels ++ [.chrecv iv] } := by
  rw [chrecv, chanHead, h, List.headD_cons, List.tail_cons]

/-- Settles O13: an empty channel holds the consumer, and from any other the head is taken. -/
theorem chrecvDequeuesTheOldest : Obligations.ChrecvDequeuesTheOldest := by
  intro x s
  constructor
  · exact exec_chrecv_of_empty x
  · intro iv rest hchan
    have hne : s.chan ≠ [] := hchan ▸ List.cons_ne_nil iv rest
    rw [exec_chrecv_of_ne_nil x hne, chrecv_of_cons hchan]

/-! ### EDGE -/

theorem exec_edge_of_disabled (hen : s.en = false) (now : U32) : exec (.edge now) s = .next s :=
  execEdge_next.2 (by rw [hen]; rfl)

theorem captureEdge_of_room (now : U32) (h : s.chan.length < s.cfg.c) :
    captureEdge now s = { s with
      last := now, chan := s.chan ++ [now - s.last], labels := s.labels ++ [.chsend true (now - s.last)] } :=
  chsend_of_room (s := { s with last := now }) (now - s.last) h

theorem captureEdge_of_full (now : U32) (h : s.cfg.c ≤ s.chan.length) :
    captureEdge now s = { s with last := now, labels := s.labels ++ [.chsend false (now - s.last)] } :=
  chsend_of_full (s := { s with last := now }) (now - s.last) h

/-- Settles O11: an enabled edge is the send of its interval in the state whose `last` is already the edge's time, so
`last` is updated whether the channel has room or not. -/
theorem edgeCapturesTheInterval : Obligations.EdgeCapturesTheInterval := by
  intro now s
  refine ⟨fun hen => exec_edge_of_disabled hen now, fun hen hroom => ?_, fun hen hfull => ?_⟩
  · rw [exec_edge_of_enabled hen, captureEdge_of_room now hroom]
  · rw [exec_edge_of_enabled hen, captureEdge_of_full now hfull]

/-! ### A dropped interval (R104) -/

/-- A dropped edge leaves the consumer ready with the same interval. -/
theorem ready_captureEdge_of_full {iv : U32} {rest : List U32} (h : Ready s iv rest)
    (hfull : s.cfg.c ≤ s.chan.length) (x : U32) : Ready (captureEdge x s) iv rest := by
  rw [captureEdge_of_full x hfull]
  exact h

theorem consumerStep_chan_of_ready {iv : U32} {rest : List U32} (h : Ready s iv rest) :
    (consumerStep s).chan = rest := by
  obtain ⟨-, -, hchan⟩ := h
  rw [consumerStep_chan, hchan, List.tail_cons]

/-- The step of a ready consumer leaves room in a channel that held at most C intervals. -/
theorem consumerStep_has_room {iv : U32} {rest : List U32} (h : Ready s iv rest) (hlength : s.chan.length ≤ s.cfg.c) :
    (consumerStep s).chan.length < (consumerStep s).cfg.c := by
  rw [consumerStep_chan_of_ready h, consumerStep_cfg]
  obtain ⟨-, -, hchan⟩ := h
  rw [hchan, List.length_cons] at hlength
  exact hlength

/-- Settles O14: the dropped edge x still moves `last` to x, the consumer step frees one slot and leaves `last` alone,
so the edge at y finds room for y - x. -/
theorem droppedEdgeKeepsTheTimeReference : Obligations.DroppedEdgeKeepsTheTimeReference := by
  intro s x y iv rest hready hfull
  have hdropped : Ready (captureEdge x s) iv rest := ready_captureEdge_of_full hready hfull.ge x
  have hlength : (captureEdge x s).chan.length ≤ (captureEdge x s).cfg.c := by
    rw [captureEdge_of_full x hfull.ge]
    exact hfull.le
  obtain ⟨hen, -, -⟩ := hready
  have hstill : (consumerStep (captureEdge x s)).en = true := by rw [consumerStep_en, captureEdge_en, hen]
  refine ⟨captureEdge y (consumerStep (captureEdge x s)), ?_, ?_, captureEdge_last ..⟩
  · simp only [execAll, exec_edge_of_enabled hen, exec_cstep_of_ready hdropped, exec_edge_of_enabled hstill]
  · rw [captureEdge_of_room y (consumerStep_has_room hdropped hlength), consumerStep_chan_of_ready hdropped,
      consumerStep_last, captureEdge_last]

end Sys2Proof.Machine
end

section
/-! The sample ring, the trigger and the decode window (42_ring_trigger_window.md R120 to R128): what PUSH does to the
samples in chronological order, what TRIGCHK does when it fires and when it does not, where a fired trigger's window
starts, and how a consumer step counts the trigger. -/

namespace Sys2Proof.Machine

variable {s : State}

/-! ### A ring overwritten in one slot -/

/-- Reading from the slot after the one overwritten: the overwritten sample is gone and the new one is last. -/
theorem rotate_succ_set {α : Type*} {l : List α} {i : Nat} (h : i < l.length) (v : α) :
    (l.set i v).rotate (i + 1) = (l.rotate i).tail ++ [v] := by
  rw [List.rotate_eq_drop_append_take (by rw [List.length_set]; exact h), List.rotate_eq_drop_append_take h.le,
    List.drop_set_of_lt (Nat.lt_succ_self i), List.take_add_one, List.take_set_of_le le_rfl,
    List.drop_eq_getElem_cons h]
  simp [h]

/-- Reading from the overwritten slot itself: the new sample comes first. -/
theorem rotate_set_same {α : Type*} {l : List α} {i : Nat} (h : i < l.length) (v : α) :
    (l.set i v).rotate i = v :: (l.rotate i).tail := by
  have hset : i < (l.set i v).length := by rw [List.length_set]; exact h
  rw [List.rotate_eq_drop_append_take hset.le, List.rotate_eq_drop_append_take h.le,
    List.drop_eq_getElem_cons hset, List.drop_eq_getElem_cons h, List.drop_set_of_lt (Nat.lt_succ_self i),
    List.take_set_of_le le_rfl, List.getElem_set_self, List.cons_append, List.cons_append, List.tail_cons]

/-! ### PUSH -/

theorem exec_push (slot : U16) (iv : U32) (s : State) : exec (.push slot iv) s = .next (push iv s) := rfl

theorem push_of_wf (iv : U32) (hw : Memory.wf s) :
    push iv s = { s with
      ring := s.ring.set s.cursor iv
      cursor := if s.cursor + 1 = s.cfg.n then 0 else s.cursor + 1
      labels := s.labels ++ [.push (field16 s.cursor) iv] } := by
  obtain ⟨-, hcursor, -⟩ := hw
  rw [push, ringWrite_of_lt iv hcursor, advance_of_lt hcursor]

/-- Settles O16: under the storage form the cursor is below N, so the slot index is not reduced and the advance is a
successor that wraps at N. -/
theorem pushOverwritesAndAdvances : Obligations.PushOverwritesAndAdvances := by
  intro slot iv s hw
  rw [exec_push, push_of_wf iv hw]
  rfl

/-- A PUSH discards the oldest sample and appends the new one. -/
theorem chronological_push (hw : Memory.wf s) (iv : U32) :
    chronological (push iv s) = (chronological s).tail ++ [iv] := by
  obtain ⟨hring, hcursor, -⟩ := hw
  have hlength : (s.ring.set s.cursor iv).length = s.cfg.n := by rw [List.length_set, hring]
  rw [chronological, chronological, push_ring, push_cursor, ringWrite_of_lt iv hcursor, advance, ← hlength,
    List.rotate_mod, rotate_succ_set (hring ▸ hcursor)]

/-- The ring is never empty, so dropping the oldest sample of the extended history drops one that was in the ring. -/
theorem chronological_append_drop_one (hw : Memory.wf s) (vs : List U32) :
    (chronological s ++ vs).drop 1 = (chronological s).tail ++ vs := by
  obtain ⟨hring, hcursor, -⟩ := hw
  have hne : chronological s ≠ [] := by
    rw [← List.length_pos_iff, chronological, List.length_rotate, hring]
    exact Nat.zero_lt_of_lt hcursor
  rw [List.drop_one, List.tail_append_of_ne_nil hne]

/-- Settles O17, by induction on the pushed samples: each push drops one sample at the front of the chronological order
and appends one at its end. -/
theorem pushesKeepTheLatestSamples : Obligations.PushesKeepTheLatestSamples := by
  intro vs
  induction vs with
  | nil =>
    intro s hw
    have ⟨_, hcursor, _⟩ := hw
    exact ⟨s, rfl, hw, (Nat.mod_eq_of_lt hcursor).symm, (List.append_nil _).symm⟩
  | cons v vs ih =>
    intro s hw
    obtain ⟨t, hrun, hwt, hcursor, hsamples⟩ := ih (push v s) (Memory.wf_push v hw)
    refine ⟨t, hrun, hwt, ?_, ?_⟩
    · rw [hcursor, push_cursor, push_cfg, advance, Nat.mod_add_mod, List.length_cons, Nat.add_right_comm,
        Nat.add_assoc]
    · rw [hsamples, chronological_push hw, List.append_assoc, List.singleton_append,
        ← chronological_append_drop_one hw, List.drop_drop, List.length_cons, Nat.add_comm 1]

/-! ### TRIGCHK -/

theorem exec_trigchk (f : Bool) (a : U16) (iv : U32) (s : State) :
    exec (.trigchk f a iv) s = .next (trigchk iv s) := rfl

theorem trigchk_of_fires {iv : U32} (h : s.trig < iv) :
    trigchk iv s = { s with
      anchor := anchorFor s.cursor s.cfg, trgcnt := s.trgcnt + 1
      labels := s.labels ++ [.trigchk true (field16 (anchorFor s.cursor s.cfg)) iv] } := by
  simp only [trigchk, (fires_iff iv s.trig).2 h, if_true]

theorem trigchk_of_not_fires {iv : U32} (h : ¬ s.trig < iv) :
    trigchk iv s = { s with labels := s.labels ++ [.trigchk false 0 iv] } := by
  have hf : fires iv s.trig = false := Bool.eq_false_iff.2 (mt (fires_iff iv s.trig).1 h)
  simp only [trigchk, hf, Bool.false_eq_true, if_false]

theorem anchorFor_of_afterAdvance {c : Config} (h : c.anchorMode = .afterAdvance) (i : Nat) : anchorFor i c = i := by
  simp only [anchorFor, h]

theorem anchorFor_of_atSample {c : Config} (h : c.anchorMode = .atSample) (i : Nat) :
    anchorFor i c = (i + c.n - 1) % c.n := by
  simp only [anchorFor, h]

/-- Settles O18: the comparison decides between firing and nothing, and the anchor mode gives the anchor. -/
theorem trigchkComparesStrictly : Obligations.TrigchkComparesStrictly := by
  intro f a iv s
  rw [exec_trigchk]
  refine ⟨fun hle => ?_, fun hlt hmode => ?_, fun hlt hmode => ?_⟩
  · rw [trigchk_of_not_fires (Nat.not_lt.2 hle)]
  · rw [trigchk_of_fires hlt, anchorFor_of_afterAdvance hmode]
    rfl
  · rw [trigchk_of_fires hlt, anchorFor_of_atSample hmode]
    rfl

/-! ### WINRD and the decode window -/

theorem exec_winrd (k : U16) (y : U32) (s : State) : exec (.winrd k y) s = .next (winrd k.toNat s) := rfl

theorem field16_toNat (k : U16) : field16 k.toNat = k := by
  rw [field16, BitVec.ofNat_toNat, BitVec.setWidth_eq]

/-- Settles O19: the ring has the slot the rotated index names, and the sample in it is the one recorded. -/
theorem winrdReadsTheRotatedSlot : Obligations.WinrdReadsTheRotatedSlot := by
  intro k y s hw
  obtain ⟨hring, hcursor, -⟩ := hw
  refine ⟨windowSample k.toNat s, ringRead_eq _ hring (Nat.zero_lt_of_lt hcursor), ?_⟩
  rw [exec_winrd, winrd, field16_toNat]

/-- Stepping the advanced cursor back gives the slot just written (R122). -/
theorem anchorFor_advance_of_atSample {c : Config} (h : c.anchorMode = .atSample) {i : Nat} (hi : i < c.n) :
    anchorFor (advance i c) c = i := by
  rw [anchorFor_of_atSample h, advance_of_lt hi]
  split
  next hwrap => rw [Nat.zero_add, Nat.mod_eq_of_lt (by omega), ← hwrap, Nat.add_sub_cancel]
  next => rw [Nat.add_right_comm, Nat.add_sub_cancel, Nat.add_mod_right, Nat.mod_eq_of_lt hi]

/-- The window of the trigger a PUSH fires is the ring with the interval in it, read from the anchor on. -/
theorem window_trigchk_push {iv : U32} (hw : Memory.wf s) (h : s.trig < iv) :
    window (trigchk iv (push iv s)) = (push iv s).ring.rotate (anchorFor (advance s.cursor s.cfg) s.cfg) := by
  obtain ⟨hring, -⟩ := Memory.wf_trigchk iv (Memory.wf_push iv hw)
  rw [window_eq_rotate hring, trigchk_of_fires (s := push iv s) h, push_cursor, push_cfg]

/-- Under AFTER_ADVANCE the anchor is the cursor, so the window is the ring in chronological order. -/
theorem window_trigchk_push_of_afterAdvance {iv : U32} (hw : Memory.wf s) (h : s.trig < iv)
    (hmode : s.cfg.anchorMode = .afterAdvance) :
    window (trigchk iv (push iv s)) = (chronological s).tail ++ [iv] := by
  rw [window_trigchk_push hw h, anchorFor_of_afterAdvance hmode, ← chronological_push hw]
  rfl

/-- Under AT_SAMPLE the anchor is the slot just written, so the interval comes first. -/
theorem window_trigchk_push_of_atSample {iv : U32} (hw : Memory.wf s) (h : s.trig < iv)
    (hmode : s.cfg.anchorMode = .atSample) :
    window (trigchk iv (push iv s)) = iv :: (chronological s).tail := by
  have ⟨hring, hcursor, _⟩ := hw
  rw [window_trigchk_push hw h, anchorFor_advance_of_atSample hmode hcursor, push_ring,
    ringWrite_of_lt iv hcursor, rotate_set_same (hring ▸ hcursor), chronological]

/-- Settles O20: the older samples are the ring's without its oldest, in chronological order, and the anchor mode puts
the interval after or before them. -/
theorem windowIsChronologicalByAnchorMode : Obligations.WindowIsChronologicalByAnchorMode := by
  intro s iv hw hfires
  exact ⟨trigchk iv (push iv s), (chronological s).tail, rfl, chronological_append_drop_one hw [iv],
    window_trigchk_push_of_afterAdvance hw hfires, window_trigchk_push_of_atSample hw hfires⟩

/-! ### Counting the triggers (R128) -/

/-- One step of a ready consumer adds to TRGCNT the count of triggers its one interval fires. -/
theorem consumerStep_trgcnt_of_ready {iv : U32} {rest : List U32} (h : Ready s iv rest) :
    (consumerStep s).trgcnt = s.trgcnt + BitVec.ofNat 32 ([iv].countP fun x => decide (s.trig < x)) := by
  obtain ⟨-, -, hchan⟩ := h
  rw [consumerStep_trgcnt, chanHead, hchan, List.headD_cons]
  by_cases hf : s.trig < iv <;> simp [fires, hf]

/-- Settles O21, by induction on the number of consumer steps: each takes the head of the channel, counts it when it
exceeds TRIG, and leaves EN, the refusal mark and TRIG for the next. -/
theorem triggersCountTheLongIntervals : Obligations.TriggersCountTheLongIntervals := by
  intro m
  induction m with
  | zero =>
    intro s _ _ _
    exact ⟨s, rfl, rfl, (BitVec.add_zero _).symm⟩
  | succ m ih =>
    intro s hen hrefused hm
    obtain ⟨iv, rest, hchan⟩ := List.exists_cons_of_length_pos (Nat.zero_lt_of_lt hm)
    have hready : Ready s iv rest := ⟨hen, hrefused, hchan⟩
    have hrest : (consumerStep s).chan = rest := consumerStep_chan_of_ready hready
    have hlength : m ≤ (consumerStep s).chan.length := by simpa [hchan] using hm
    obtain ⟨t, hrun, htchan, htcount⟩ :=
      ih (consumerStep s) (by rw [consumerStep_en, hen]) (by rw [consumerStep_refused, hrefused]) hlength
    refine ⟨t, ?_, ?_, ?_⟩
    · rw [List.replicate_succ, execAll, exec_cstep_of_ready hready]
      exact hrun
    · rw [htchan, hrest, hchan, List.drop_succ_cons]
    · rw [htcount, hrest, hchan, consumerStep_trig, consumerStep_trgcnt_of_ready hready, List.take_succ_cons,
        ← List.singleton_append (l := rest.take m), List.countP_append, BitVec.ofNat_add, BitVec.add_assoc]

end Sys2Proof.Machine
end

section
/-! The pulse decoder's four operations (43_decoder.md R140 to R147), each from the lemma that says what it computes. -/

namespace Sys2Proof.Machine

variable {s : State}

/-! ### CLASSIFY -/

theorem exec_classify (y : Sym) (x : U32) (s : State) : exec (.classify y x) s = .next (classifyOp x s) := rfl

/-- Settles O22: the comparator's three answers are the three cases, HIGH before the comparison with T1. -/
theorem classifyByThresholds : Obligations.ClassifyByThresholds := by
  intro y x s
  rw [exec_classify, classifyOp]
  refine ⟨fun hhigh => ?_, fun h2 h1 => ?_, fun h2 h1 => ?_⟩
  · rw [classify_high hhigh]
  · rw [classify_mid (Nat.not_lt.2 h2) h1]
  · rw [classify_low (Nat.not_lt.2 h2) (Nat.not_lt.2 h1)]

/-! ### DECINIT -/

/-- Settles O23: the decoder's fresh state is written out by its definition. -/
theorem decinitStartsFresh : Obligations.DecinitStartsFresh := fun _ _ => rfl

/-! ### PAIRSTEP -/

theorem exec_pairstep (sym : Sym) (y : Prev) (bp : BitVec 7) (c b o : Bool) (s : State) :
    exec (.pairstep sym y bp c b o) s = .next (pairstep sym s) := rfl

/-- PAIRSTEP writes what the pairing state machine computes. -/
theorem pairstep_of_result {sym : Sym} {r : PairResult} (h : pairResult sym s.dec = r) : pairstep sym s = { s with
    dec := { s.dec with acc := r.acc, bitpos := r.bitpos, prev := r.prev, closed := r.closed,
                        bitposBefore := s.dec.bitpos }
    overrun := s.overrun || r.ov
    labels := s.labels ++ [.pairstep sym s.dec.prev s.dec.bitpos r.closed r.bitset r.ov] } := by
  subst h
  rfl

theorem pairResult_exhausted {sym : Sym} {d : Decoder} (hs : sym ≠ .high) (hp : d.prev ≠ .none)
    (hb : d.bitpos = -1) : pairResult sym d =
      { acc := d.acc, bitpos := -1, prev := .none, closed := true, bitset := false, ov := true } := by
  rw [pairResult_closing hs hp, closePair_exhausted hb]

theorem pairResult_one {d : Decoder} (hp : d.prev = .mid) (hb : d.bitpos ≠ -1) : pairResult .low d =
    { acc := setBit d.acc d.bitpos, bitpos := d.bitpos - 1, prev := .none, closed := true, bitset := true,
      ov := false } := by
  have hpending : d.prev ≠ .none := by simp [hp]
  rw [pairResult_closing (by decide) hpending, closePair_open hb]
  simp [hp]

theorem pairResult_zero {sym : Sym} {d : Decoder} (hs : sym ≠ .high) (hp : d.prev ≠ .none)
    (hzero : ¬ (d.prev = .mid ∧ sym = .low)) (hb : d.bitpos ≠ -1) : pairResult sym d =
    { acc := d.acc, bitpos := d.bitpos - 1, prev := .none, closed := true, bitset := false, ov := false } := by
  rw [pairResult_closing hs hp, closePair_open hb, decide_eq_false hzero]
  rfl

/-- Settles O24: the six clauses are the six results of the pairing state machine. -/
theorem pairstepFollowsTheStateMachine : Obligations.PairstepFollowsTheStateMachine := by
  intro y bp c b o s
  simp only [exec_pairstep]
  refine ⟨?_, fun hp => ?_, fun hp => ?_, fun sym hs hp hb => ?_, fun hp hb => ?_, fun sym hs hp hz hb => ?_⟩
  · simp [pairstep_of_result (pairResult_high s.dec)]
  · simp [pairstep_of_result (pairResult_pending (sym := .low) (by decide) hp), pendingOf, hp]
  · simp [pairstep_of_result (pairResult_pending (sym := .mid) (by decide) hp), pendingOf, hp]
  · simp [pairstep_of_result (pairResult_exhausted hs hp hb), hb]
  · simp [pairstep_of_result (pairResult_one hp hb), setBit, hp]
  · simp [pairstep_of_result (pairResult_zero hs hp hz hb)]

/-! ### EMITCHK -/

theorem exec_emitchk (e : Bool) (sl : U16) (v : U64) (s : State) : exec (.emitchk e sl v) s = .next (emitchk s) := rfl

theorem emitchk_of_emits (h : emits s.cfg s.dec = true) : emitchk s = { s with
    dec := s.dec.emit, labels := s.labels ++ [.emitchk true (field16 s.dec.wc) s.dec.acc] } := by
  simp only [emitchk, afterEmitchk_of_emits h, h, if_true]

theorem emitchk_of_not (h : emits s.cfg s.dec = false) :
    emitchk s = { s with labels := s.labels ++ [.emitchk false 0 0] } := by
  simp only [emitchk, afterEmitchk_of_not h, h, Bool.false_eq_true, if_false]

/-- Settles O25: the stated condition is the one `emits` decides. -/
theorem emitchkEmitsAtTheTerminalPosition : Obligations.EmitchkEmitsAtTheTerminalPosition := by
  intro e sl v s
  rw [exec_emitchk, ← emits_iff, Bool.not_eq_true]
  constructor
  · intro h
    rw [emitchk_of_emits h]
    rfl
  · intro h
    rw [emitchk_of_not h]

/-- Settles O26: an emission happens at bit position 0 only, and no emission writes acc. -/
theorem emissionRestoresNothing : Obligations.EmissionRestoresNothing := by
  intro e sl v s
  exact ⟨emitchk s, rfl, afterEmitchk_bitpos s.cfg s.dec, afterEmitchk_acc s.cfg s.dec⟩

end Sys2Proof.Machine
end

section
/-! DECODE over a window (43_decoder.md R145 to R148): the window alone decides it; the position a run of samples that
are not HIGH leaves the decoder at, and what follows for the words and OVERRUN of a trigger. -/

namespace Sys2Proof.Machine

variable {s : State} {c : Config} {t1 t2 : U32} {p : Decoder × Bool} {sym : Sym} {d : Decoder}

/-! ### DECODE on a list of samples -/

/-- DECINIT and then one `sampleStep` per sample: the decoder and OVERRUN that DECODE makes of `p` (R145). -/
def decodeSamples (c : Config) (t1 t2 : U32) (p : Decoder × Bool) (xs : List U32) : Decoder × Bool :=
  xs.foldl (sampleStep c t1 t2) (p.1.fresh, p.2)

@[simp] theorem decodeSamples_nil : decodeSamples c t1 t2 p [] = (p.1.fresh, p.2) := rfl

@[simp] theorem decodeSamples_concat (xs : List U32) (x : U32) :
    decodeSamples c t1 t2 p (xs ++ [x]) = sampleStep c t1 t2 (decodeSamples c t1 t2 p xs) x := by
  simp [decodeSamples]

theorem decodeWindow_dec (s : State) :
    (decodeWindow s).dec = (decodeSamples s.cfg s.t1 s.t2 (s.dec, s.overrun) (window s)).1 :=
  congrArg Prod.fst (decodeWindow_pure s)

theorem decodeWindow_overrun (s : State) :
    (decodeWindow s).overrun = (decodeSamples s.cfg s.t1 s.t2 (s.dec, s.overrun) (window s)).2 :=
  congrArg Prod.snd (decodeWindow_pure s)

/-- The trigger's DECODE works on the window that pushing `iv` makes. -/
theorem decodeWindow_receivePush_dec {iv : U32} {rest : List U32} (hw : Memory.wf s) (h : Ready s iv rest)
    (hf : s.trig < iv) : (decodeWindow (receivePush s)).dec =
      (decodeSamples s.cfg s.t1 s.t2 (s.dec, s.overrun) (triggerWindow s iv)).1 := by
  rw [decodeWindow_dec, window_receivePush hw h hf]
  rfl

theorem decodeWindow_receivePush_overrun {iv : U32} {rest : List U32} (hw : Memory.wf s) (h : Ready s iv rest)
    (hf : s.trig < iv) : (decodeWindow (receivePush s)).overrun =
      (decodeSamples s.cfg s.t1 s.t2 (s.dec, s.overrun) (triggerWindow s iv)).2 := by
  rw [decodeWindow_overrun, window_receivePush hw h hf]
  rfl

/-! ### The fields an EMITCHK leaves alone -/

@[simp] theorem afterEmitchk_prev (c : Config) (d : Decoder) : (d.afterEmitchk c).prev = d.prev := by
  obtain ⟨-, hd⟩ | ⟨-, hd⟩ := afterEmitchk_cases c d <;> rw [hd]
  rfl

@[simp] theorem afterEmitchk_closed (c : Config) (d : Decoder) : (d.afterEmitchk c).closed = d.closed := by
  obtain ⟨-, hd⟩ | ⟨-, hd⟩ := afterEmitchk_cases c d <;> rw [hd]
  rfl

@[simp] theorem afterEmitchk_words_length (c : Config) (d : Decoder) :
    (d.afterEmitchk c).words.length = d.words.length := by
  obtain ⟨-, hd⟩ | ⟨-, hd⟩ := afterEmitchk_cases c d <;> simp [hd]

/-! ### The window alone decides the decode (R148) -/

/-- Two decoders that the same samples take to the same words: equal but for the slots not yet filled and the latches,
which the next PAIRSTEP writes. -/
structure SameDecode (d e : Decoder) : Prop where
  acc : d.acc = e.acc
  bitpos : d.bitpos = e.bitpos
  prev : d.prev = e.prev
  count : d.wc = e.wc
  slots : d.words.length = e.words.length
  emitted : emittedWords d = emittedWords e

theorem SameDecode.pairResult {e : Decoder} (h : SameDecode d e) (sym : Sym) : pairResult sym d = pairResult sym e := by
  obtain ⟨hacc, hbitpos, hprev, -⟩ := h
  simp only [Machine.pairResult, closePair, hacc, hbitpos, hprev]

theorem SameDecode.afterPair {e : Decoder} (h : SameDecode d e) (sym : Sym) :
    SameDecode (d.afterPair sym) (e.afterPair sym) where
  acc := by simp [h.pairResult]
  bitpos := by simp [h.pairResult]
  prev := by simp [h.pairResult]
  count := h.count
  slots := h.slots
  emitted := h.emitted

/-- Whether an EMITCHK after a PAIRSTEP emits depends on the configuration through W and EMIT_MODE alone. -/
theorem SameDecode.emits_afterPair {c' : Config} {e : Decoder} (h : SameDecode d e) (hslots : c.w = c'.w)
    (hmode : c.emitMode = c'.emitMode) (sym : Sym) : emits c (d.afterPair sym) = emits c' (e.afterPair sym) := by
  rw [Bool.eq_iff_iff, emits_iff, emits_iff]
  simp [h.pairResult, h.bitpos, h.count, hslots, hmode]

theorem SameDecode.emit {e : Decoder} (h : SameDecode d e) (hroom : d.wc < d.words.length) :
    SameDecode d.emit e.emit where
  acc := h.acc
  bitpos := rfl
  prev := h.prev
  count := by simp [h.count]
  slots := by simp [h.slots]
  emitted := by
    rw [emittedWords_emit hroom, emittedWords_emit (by rw [← h.count, ← h.slots]; exact hroom), h.emitted, h.acc]

theorem SameDecode.sample {c' : Config} {e : Decoder} (h : SameDecode d e) (hroom : d.words.length = c.w)
    (hslots : c.w = c'.w) (hmode : c.emitMode = c'.emitMode) (sym : Sym) :
    SameDecode ((d.afterPair sym).afterEmitchk c) ((e.afterPair sym).afterEmitchk c') := by
  have hsame := h.emits_afterPair hslots hmode sym
  obtain ⟨he, hd⟩ | ⟨he, hd⟩ := afterEmitchk_cases c (d.afterPair sym)
  · obtain ⟨-, -, hlt, -⟩ := (emits_iff _ _).1 he
    rw [hd, afterEmitchk_of_emits (hsame ▸ he)]
    exact (h.afterPair sym).emit (hroom ▸ hlt)
  · rw [hd, afterEmitchk_of_not (hsame ▸ he)]
    exact h.afterPair sym

theorem decodeSamples_words_length (xs : List U32) :
    (decodeSamples c t1 t2 p xs).1.words.length = p.1.words.length := by
  induction xs using List.reverseRecOn with
  | nil => simp
  | append_singleton xs x ih => simpa [sampleStep] using ih

/-- The samples take any two decoders with W slots to the same words, and raise OVERRUN in both or in neither. -/
theorem sameDecode_decodeSamples {c' : Config} {q : Decoder × Bool} (hp : p.1.words.length = c.w)
    (hq : q.1.words.length = c'.w) (hslots : c.w = c'.w) (hmode : c.emitMode = c'.emitMode) (xs : List U32) :
    SameDecode (decodeSamples c t1 t2 p xs).1 (decodeSamples c' t1 t2 q xs).1 ∧
      ∃ b, (decodeSamples c t1 t2 p xs).2 = (p.2 || b) ∧ (decodeSamples c' t1 t2 q xs).2 = (q.2 || b) := by
  induction xs using List.reverseRecOn with
  | nil =>
    have hfresh : SameDecode p.1.fresh q.1.fresh := ⟨rfl, rfl, rfl, rfl, by simp [hp, hq, hslots], rfl⟩
    exact ⟨hfresh, false, by simp, by simp⟩
  | append_singleton xs x ih =>
    obtain ⟨hsame, b, hb, hb'⟩ := ih
    simp only [decodeSamples_concat]
    refine ⟨hsame.sample ((decodeSamples_words_length xs).trans hp) hslots hmode _,
      b || (pairResult (classify t1 t2 x) (decodeSamples c t1 t2 p xs).1).ov, ?_, ?_⟩
    · rw [sampleStep, hb, Bool.or_assoc]
    · rw [sampleStep, hb', hsame.pairResult, Bool.or_assoc]

/-- Settles O29: both decodes are `decodeSamples` over the same window. -/
theorem decodeDependsOnTheWindowAlone : Obligations.DecodeDependsOnTheWindowAlone := by
  intro s u ⟨_, _, _, hs, _⟩ ⟨_, _, _, hu, _⟩ hwindow ht1 ht2 hslots hmode
  rw [decodeWindow_dec s, decodeWindow_dec u, decodeWindow_overrun s, decodeWindow_overrun u, ← hwindow, ← ht1,
    ← ht2]
  obtain ⟨hsame, hoverrun⟩ := sameDecode_decodeSamples (t1 := s.t1) (t2 := s.t2) (p := (s.dec, s.overrun))
    (q := (u.dec, u.overrun)) hs hu hslots hmode (window s)
  exact ⟨hsame.emitted, hsame.count, hoverrun⟩

/-! ### The run of samples that are not HIGH -/

/-- The samples since the latest HIGH. -/
def quietRun (t2 : U32) (xs : List U32) : List U32 := xs.rtakeWhile fun x => decide (x ≤ t2)

theorem quietRun_concat_high {x : U32} (h : t2 < x) (xs : List U32) : quietRun t2 (xs ++ [x]) = [] :=
  List.rtakeWhile_concat_neg _ _ x (by simpa using h)

theorem quietRun_concat_quiet {x : U32} (h : ¬ t2 < x) (xs : List U32) :
    quietRun t2 (xs ++ [x]) = quietRun t2 xs ++ [x] :=
  List.rtakeWhile_concat_pos _ _ x (by simpa using h)

theorem quietRun_eq_self {xs : List U32} (h : ∀ x ∈ xs, x ≤ t2) : quietRun t2 xs = xs :=
  List.rtakeWhile_eq_self_iff.2 (by simpa using h)

theorem not_high_of_mem_quietRun {xs : List U32} {x : U32} (h : x ∈ quietRun t2 xs) : ¬ t2 < x := by
  simpa using List.mem_rtakeWhile_imp h

/-- No `m` consecutive samples without a HIGH: the premise of R146 and R239. -/
def LacksRun (m : Nat) (t2 : U32) (xs : List U32) : Prop :=
  ∀ pre run post, xs = pre ++ run ++ post → run.length = m → ∃ x ∈ run, t2 < x

theorem LacksRun.of_concat {m : Nat} {xs : List U32} {x : U32} (h : LacksRun m t2 (xs ++ [x])) : LacksRun m t2 xs :=
  fun pre run post hxs => h pre run (post ++ [x]) (by simp [hxs])

theorem LacksRun.quietRun_length_lt {m : Nat} {xs : List U32} (h : LacksRun m t2 xs) :
    (quietRun t2 xs).length < m := by
  by_contra hlong
  obtain ⟨pre, hxs⟩ : quietRun t2 xs <:+ xs := List.rtakeWhile_suffix _ xs
  obtain ⟨x, hx, hhigh⟩ := h pre ((quietRun t2 xs).take m) ((quietRun t2 xs).drop m)
    (by rw [List.append_assoc, List.take_append_drop, hxs]) (by rw [List.length_take]; omega)
  exact not_high_of_mem_quietRun (List.mem_of_mem_take hx) hhigh

/-! ### The decoder after a run of `n` samples that are not HIGH -/

/-- Every second sample of the run closes a pair: the position after `n` samples is 63 - n/2, down to -1 (R143). -/
structure InFrame (n : Nat) (d : Decoder) : Prop where
  running : n < 128 → d.bitpos.toNat + n / 2 = 63
  exhausted : 128 ≤ n → d.bitpos = -1
  pending : d.prev = .none ↔ n % 2 = 0
  latch : n % 2 = 1 → d.closed = false

theorem inFrame_start (h : d.bitpos = 63) (hp : d.prev = .none) : InFrame 0 d where
  running := by simp [h]
  exhausted := by simp
  pending := by simp [hp]
  latch := by simp

theorem InFrame.bitpos_eq_neg_one_iff {n : Nat} (h : InFrame n d) : d.bitpos = -1 ↔ 128 ≤ n := by
  refine ⟨fun hb => ?_, h.exhausted⟩
  by_contra hn
  have hrunning := h.running (by omega)
  have hlast : (-1 : BitVec 7).toNat = 127 := rfl
  rw [hb] at hrunning
  omega

theorem InFrame.afterPair_of_even {n : Nat} (h : InFrame n d) (hn : n % 2 = 0) (hs : sym ≠ .high) :
    InFrame (n + 1) (d.afterPair sym) := by
  have hr := pairResult_pending hs (h.pending.2 hn)
  have hpending : pendingOf sym ≠ .none := by
    cases sym
    case high => exact absurd rfl hs
    all_goals decide
  have hposition : (d.afterPair sym).bitpos = d.bitpos := by rw [afterPair_bitpos, hr]
  refine ⟨fun hlt => ?_, fun hle => ?_, ?_, fun _ => by rw [afterPair_closed, hr]⟩
  · have hpos := h.running (by omega)
    rw [hposition]
    omega
  · rw [hposition]
    exact h.exhausted (by omega)
  · rw [afterPair_prev, hr]
    exact iff_of_false hpending (by omega)

theorem InFrame.prev_ne_none_of_odd {n : Nat} (h : InFrame n d) (hn : n % 2 = 1) : d.prev ≠ .none :=
  mt h.pending.1 (by omega)

theorem closePair_prev (one : Bool) (d : Decoder) : (closePair one d).prev = .none := by
  unfold closePair
  split <;> rfl

/-- Below 128 samples the closing pair takes the position down by one, the last of them to -1. -/
theorem InFrame.afterPair_of_odd {n : Nat} (h : InFrame n d) (hn : n % 2 = 1) (hs : sym ≠ .high) :
    InFrame (n + 1) (d.afterPair sym) := by
  have hp := h.prev_ne_none_of_odd hn
  have hpending : (d.afterPair sym).prev = .none := by rw [afterPair_prev, pairResult_closing hs hp, closePair_prev]
  have hposition (hb : d.bitpos ≠ -1) : (d.afterPair sym).bitpos = d.bitpos - 1 := by
    rw [afterPair_bitpos, pairResult_closing hs hp, closePair_open hb]
  refine ⟨fun hlt => ?_, fun hle => ?_, iff_of_true hpending (by omega), by omega⟩
  · have hpos := h.running (by omega)
    rw [hposition (mt h.bitpos_eq_neg_one_iff.1 (by omega))]
    bv_omega
  · by_cases hb : d.bitpos = -1
    · rw [afterPair_bitpos, pairResult_exhausted hs hp hb]
    · have hlt : n < 128 := Nat.lt_of_not_le (mt h.bitpos_eq_neg_one_iff.2 hb)
      have hzero : d.bitpos.toNat = 0 := by
        have hpos := h.running hlt
        omega
      rw [hposition hb]
      bv_omega

theorem InFrame.afterPair {n : Nat} (h : InFrame n d) (hs : sym ≠ .high) : InFrame (n + 1) (d.afterPair sym) := by
  obtain hn | hn := Nat.mod_two_eq_zero_or_one n
  · exact h.afterPair_of_even hn hs
  · exact h.afterPair_of_odd hn hs

theorem InFrame.afterEmitchk {n : Nat} (h : InFrame n d) (c : Config) : InFrame n (d.afterEmitchk c) where
  running := by simpa using h.running
  exhausted := by simpa using h.exhausted
  pending := by simpa using h.pending
  latch := by simpa using h.latch

/-- Only the samples 126 and 127 of a frame leave the position at 0, and the second of them closes no pair. -/
theorem InFrame.of_emits {n : Nat} (h : InFrame n d) (he : emits c d = true) :
    n = 126 ∨ (n = 127 ∧ c.emitMode = .level) := by
  obtain ⟨hb, -, -, hlatch⟩ := (emits_iff c d).1 he
  have hlt : n < 128 := Nat.lt_of_not_le fun hle => absurd (hb.symm.trans (h.exhausted hle)) (by decide)
  have hpos := h.running hlt
  have hzero : (0 : BitVec 7).toNat = 0 := rfl
  rw [hb, hzero] at hpos
  obtain h126 | h127 : n = 126 ∨ n = 127 := by omega
  · exact .inl h126
  · refine .inr ⟨h127, ?_⟩
    cases hmode : c.emitMode
    · rfl
    · obtain ⟨hclosed, -⟩ := hlatch hmode
      simp [h.latch (by omega)] at hclosed

/-- A pair closes past position 0 no earlier than at the 130th sample of a frame. -/
theorem InFrame.ov_eq_false {n : Nat} (h : InFrame n d) (hs : sym ≠ .high) (hn : n < 129) :
    (pairResult sym d).ov = false := by
  by_cases hp : d.prev = .none
  · rw [pairResult_pending hs hp]
  · have hodd : n % 2 ≠ 0 := mt h.pending.2 hp
    have hb : d.bitpos ≠ -1 := mt h.bitpos_eq_neg_one_iff.1 (by omega)
    rw [pairResult_closing hs hp, closePair_open hb]

theorem inFrame_afterPair_classify {xs : List U32} (h : InFrame (quietRun t2 xs).length d) (x : U32) :
    InFrame (quietRun t2 (xs ++ [x])).length (d.afterPair (classify t1 t2 x)) := by
  by_cases hx : t2 < x
  · rw [classify_high hx, quietRun_concat_high hx]
    exact inFrame_start rfl rfl
  · rw [quietRun_concat_quiet hx, List.length_append]
    exact h.afterPair (mt (classify_eq_high_iff t1 t2 x).1 hx)

theorem inFrame_decodeSamples (xs : List U32) :
    InFrame (quietRun t2 xs).length (decodeSamples c t1 t2 p xs).1 := by
  induction xs using List.reverseRecOn with
  | nil => exact inFrame_start rfl rfl
  | append_singleton xs x ih =>
    rw [decodeSamples_concat]
    exact (inFrame_afterPair_classify ih x).afterEmitchk c

/-! ### No word without a run of 126, no overrun without one of 130 -/

theorem decodeSamples_wc_of_lacksRun {xs : List U32} (h : LacksRun 126 t2 xs) :
    (decodeSamples c t1 t2 p xs).1.wc = 0 := by
  induction xs using List.reverseRecOn with
  | nil => rfl
  | append_singleton xs x ih =>
    have hframe := inFrame_afterPair_classify (t1 := t1)
      (inFrame_decodeSamples (c := c) (t1 := t1) (t2 := t2) (p := p) xs) x
    have hshort := h.quietRun_length_lt
    have hquiet : emits c ((decodeSamples c t1 t2 p xs).1.afterPair (classify t1 t2 x)) = false := by
      by_contra he
      have := hframe.of_emits (Bool.not_eq_false _ ▸ he)
      omega
    rw [decodeSamples_concat, sampleStep, afterEmitchk_of_not hquiet]
    exact ih h.of_concat

theorem decodeSamples_overrun_of_lacksRun {xs : List U32} (h : LacksRun 130 t2 xs) :
    (decodeSamples c t1 t2 p xs).2 = p.2 := by
  induction xs using List.reverseRecOn with
  | nil => rfl
  | append_singleton xs x ih =>
    have hframe := inFrame_decodeSamples (c := c) (t1 := t1) (t2 := t2) (p := p) xs
    have hshort := h.quietRun_length_lt
    have hov : (pairResult (classify t1 t2 x) (decodeSamples c t1 t2 p xs).1).ov = false := by
      by_cases hx : t2 < x
      · rw [classify_high hx, pairResult_high]
      · rw [quietRun_concat_quiet hx, List.length_append, List.length_singleton] at hshort
        exact hframe.ov_eq_false (mt (classify_eq_high_iff t1 t2 x).1 hx) (by omega)
    rw [decodeSamples_concat, sampleStep, hov, Bool.or_false]
    exact ih h.of_concat

/-! ### A trigger without a reading -/

theorem collectAll_n_ne_two {ws : List U64} (h : ∀ v ∈ ws, ∀ w ∈ ws, v = w) : (collectAll ws).n ≠ 2 := by
  intro hn
  have hc := collectedFrom_collectAll ws
  obtain ⟨hb, hne⟩ := hc.second hn
  exact hne (h _ (hc.first (by omega)) _ hb)

/-- A trigger whose emitted words are all equal hands out no reading (44_extractor_output.md R172). -/
theorem runTrigger_of_equal_words
    (h : ∀ v ∈ emittedWords (decodeWindow s).dec, ∀ w ∈ emittedWords (decodeWindow s).dec, v = w) :
    (runTrigger s).outs = s.outs ∧ (runTrigger s).rdcnt = s.rdcnt := by
  have hn : (extract (latchWordCount (decodeWindow s))).col.n ≠ 2 := collectAll_n_ne_two h
  unfold runTrigger
  obtain ⟨htwo, -⟩ | ⟨-, e⟩ := outputReading_cases (extract (latchWordCount (decodeWindow s)))
  · exact absurd htwo hn
  · rw [e]
    simp

/-- Settles O27: without the run no sample emits, and without a word there is nothing to collect. -/
theorem emissionNeedsARunOf126 : Obligations.EmissionNeedsARunOf126 := by
  intro s iv rest hw hready hf hlacks
  have hwc : (decodeWindow (receivePush s)).dec.wc = 0 := by
    rw [decodeWindow_receivePush_dec hw hready hf]
    exact decodeSamples_wc_of_lacksRun hlacks
  have hnone : emittedWords (decodeWindow (receivePush s)).dec = [] := by rw [emittedWords, hwc, List.take_zero]
  obtain ⟨houts, hrdcnt⟩ := runTrigger_of_equal_words (s := receivePush s) (by simp [hnone])
  have hlastwc : (runTrigger (receivePush s)).lastwc = 0 := by
    rw [runTrigger_lastwc, hwc]
    rfl
  exact ⟨runTrigger (receivePush s), exec_cstep_of_fires hready hf, hlastwc, houts, hrdcnt⟩

/-- Settles O28: without the run no sample closes a pair at position -1. -/
theorem overrunNeedsARunOf130 : Obligations.OverrunNeedsARunOf130 := by
  intro s iv rest hw hready hf hlacks
  refine ⟨runTrigger (receivePush s), exec_cstep_of_fires hready hf, ?_⟩
  rw [runTrigger_overrun, decodeWindow_receivePush_overrun hw hready hf]
  exact decodeSamples_overrun_of_lacksRun hlacks

/-! ### A window that is one frame -/

/-- The words of a frame of `n` samples (R144): equal ones, those of acc until the position passes 0. -/
structure OneFrame (c : Config) (n : Nat) (d : Decoder) : Prop where
  equal : ∃ v, emittedWords d = List.replicate d.wc v
  current : n ≤ 127 → emittedWords d = List.replicate d.wc d.acc
  count : d.wc ≤ n - 125
  atMostTwo : d.wc ≤ 2
  onDecrement : c.emitMode = .onDecrement → d.wc ≤ 1

theorem oneFrame_fresh (d : Decoder) : OneFrame c 0 d.fresh :=
  ⟨⟨0, rfl⟩, fun _ => rfl, Nat.le_refl 0, Nat.zero_le 2, fun _ => Nat.zero_le 1⟩

/-- A word is there from sample 126 on only, and sample 127 closes no pair: until then acc keeps the words' value. -/
theorem OneFrame.current_afterPair {n : Nat} (h : OneFrame c n d) (hframe : InFrame n d) (hs : sym ≠ .high)
    (hn : n + 1 ≤ 127) : emittedWords d = List.replicate d.wc (d.afterPair sym).acc := by
  by_cases hlast : n = 126
  · rw [afterPair_acc, pairResult_pending hs (hframe.pending.2 (by omega))]
    exact h.current (by omega)
  · have hcount := h.count
    have hnone : d.wc = 0 := by omega
    simp [emittedWords, hnone]

theorem OneFrame.sample {n : Nat} (h : OneFrame c n d) (hframe : InFrame n d) (hslots : d.words.length = c.w)
    (hs : sym ≠ .high) : OneFrame c (n + 1) ((d.afterPair sym).afterEmitchk c) := by
  have hcount := h.count
  have hcurrent := h.current_afterPair hframe hs
  obtain ⟨he, hd⟩ | ⟨-, hd⟩ := afterEmitchk_cases c (d.afterPair sym) <;> rw [hd]
  · obtain ⟨-, -, hroom, -⟩ := (emits_iff _ _).1 he
    have hlast := (hframe.afterPair hs).of_emits he
    have hwords : emittedWords (d.afterPair sym).emit = List.replicate (d.wc + 1) (d.afterPair sym).acc := by
      rw [emittedWords_emit (hslots ▸ hroom), List.replicate_succ', ← hcurrent (by omega)]
      rfl
    refine ⟨⟨_, hwords⟩, fun _ => hwords, ?_, ?_, fun hmode => ?_⟩ <;> rw [emit_wc, afterPair_wc]
    · omega
    · omega
    · simp only [hmode, reduceCtorEq, and_false, or_false] at hlast
      omega
  · exact ⟨h.equal, hcurrent, hcount.trans (by omega), h.atMostTwo, h.onDecrement⟩

/-- Without a HIGH the samples are one frame. -/
theorem oneFrame_decodeSamples (hp : p.1.words.length = c.w) {xs : List U32} (h : ∀ x ∈ xs, x ≤ t2) :
    OneFrame c xs.length (decodeSamples c t1 t2 p xs).1 := by
  induction xs using List.reverseRecOn with
  | nil => exact oneFrame_fresh p.1
  | append_singleton xs x ih =>
    obtain ⟨hxs, hx⟩ := List.forall_mem_append.1 h
    have hquiet : ¬ t2 < x := by simpa using hx
    have hframe := inFrame_decodeSamples (c := c) (t1 := t1) (t2 := t2) (p := p) xs
    rw [quietRun_eq_self hxs] at hframe
    rw [decodeSamples_concat, List.length_append]
    exact (ih hxs).sample hframe ((decodeSamples_words_length xs).trans hp) (mt (classify_eq_high_iff t1 t2 x).1 hquiet)

/-- Settles O30: the bounds and the equality of the words are those of one frame. -/
theorem oneFrameEmitsNoReading : Obligations.OneFrameEmitsNoReading := by
  intro s iv rest hw hready hf hquiet
  have ⟨_, _, _, hslots, _⟩ := hw
  have hframe := oneFrame_decodeSamples (t1 := s.t1) (p := (s.dec, s.overrun)) hslots hquiet
  rw [← decodeWindow_receivePush_dec hw hready hf] at hframe
  obtain ⟨⟨v, hwords⟩, -, -, htwo, hone⟩ := hframe
  have hequal : ∀ x ∈ emittedWords (decodeWindow (receivePush s)).dec,
      ∀ y ∈ emittedWords (decodeWindow (receivePush s)).dec, x = y := by
    rw [hwords]
    intro x hx y hy
    rw [List.eq_of_mem_replicate hx, List.eq_of_mem_replicate hy]
  obtain ⟨houts, -⟩ := runTrigger_of_equal_words hequal
  refine ⟨runTrigger (receivePush s), exec_cstep_of_fires hready hf, ?_, ?_, ?_, houts⟩ <;> rw [runTrigger_dec]
  · exact htwo
  · exact hone
  · exact hequal

end Sys2Proof.Machine
end

section
/-! EXTRACT and OUTPUT as operations of their own (44_extractor_output.md R170 to R175): the backward scan stays at what
it holds for as long as no word is new to it, and that decides the values it ends with. -/

namespace Sys2Proof.Machine

/-! ### One word of the scan -/

theorem collect_first (a b w : U64) : collect ⟨0, a, b⟩ w = ⟨1, w, b⟩ := rfl

theorem collect_equal (a b : U64) : collect ⟨1, a, b⟩ a = ⟨1, a, b⟩ := by
  simp [collect]

theorem collect_distinct {a w : U64} (b : U64) (h : w ≠ a) : collect ⟨1, a, b⟩ w = ⟨2, a, w⟩ := by
  simp [collect, h]

theorem collect_full (a b w : U64) : collect ⟨2, a, b⟩ w = ⟨2, a, b⟩ := rfl

/-! ### The scan over the words, most recent first -/

theorem foldl_collect_equal {x : U64} {ys : List U64} (h : ∀ y ∈ ys, y = x) (b : U64) :
    ys.foldl collect ⟨1, x, b⟩ = ⟨1, x, b⟩ := by
  induction ys with
  | nil => rfl
  | cons y ys ih =>
    obtain ⟨rfl, htail⟩ := List.forall_mem_cons.1 h
    rw [List.foldl_cons, collect_equal]
    exact ih htail

theorem collectAll_nil : collectAll [] = ⟨0, 0, 0⟩ := rfl

theorem collectAll_of_equal {words ys : List U64} {x : U64} (hscan : words.reverse = x :: ys) (h : ∀ y ∈ ys, y = x) :
    collectAll words = ⟨1, x, 0⟩ := by
  rw [collectAll, hscan, List.foldl_cons, collect_first]
  exact foldl_collect_equal h 0

theorem collectAll_of_distinct {words ys zs : List U64} {x y : U64} (hscan : words.reverse = x :: (ys ++ y :: zs))
    (h : ∀ z ∈ ys, z = x) (hne : y ≠ x) : collectAll words = ⟨2, x, y⟩ := by
  rw [collectAll, hscan, List.foldl_cons, collect_first, List.foldl_append, foldl_collect_equal h, List.foldl_cons,
    collect_distinct 0 hne]
  exact List.foldl_fixed' (collect_full x y) zs

/-! ### The two operations -/

theorem exec_extract (n : BitVec 2) (wc : U16) (s : State) : exec (.extract n wc) s = .next (extract s) := rfl

theorem exec_output (a b : U64) (s : State) : exec (.output a b) s = .next (output a b s) := rfl

/-- Settles O31: what EXTRACT collects is the scan of the emitted words, and the three clauses are the scan's ends: no
word, no word that differs from the last one, or a first one that does. -/
theorem extractCollectsTheFirstTwoDistinct : Obligations.ExtractCollectsTheFirstTwoDistinct := by
  intro n wc s
  refine ⟨collectAll (emittedWords s.dec), exec_extract n wc s, fun hnone => ?_, fun x ys hscan hall => ?_,
    fun x ys y zs hscan hrun hne => ?_⟩
  · rw [emittedWords, List.reverse_eq_nil_iff.1 hnone, collectAll_nil]
  · exact collectAll_of_equal hscan hall
  · exact collectAll_of_distinct hscan hrun hne

/-- Settles O32: the effect R175 states is the model's `output`, field by field. -/
theorem outputHandsOutTheReading : Obligations.OutputHandsOutTheReading := exec_output

end Sys2Proof.Machine
end

section
/-! Host registers (45_sequencer_host.md R190 to R196): an access at a register's own offset reaches that register, and
what a write to CTRL, to STATUS or to a threshold, and a read, make of it. -/

namespace Sys2Proof.Machine

variable {s : State}

/-! ### An access at a register's offset -/

theorem aligned_offset (r : HostReg) : aligned r.offset = true := by cases r <;> rfl

theorem exec_regwr_offset (r : HostReg) (data : U32) (s : State) :
    exec (.regwr r.offset data) s = .next (regWrite (some r) data s) :=
  execRegwr_next.2 ⟨aligned_offset r, by rw [ofOffset_offset]⟩

theorem exec_regrd_offset (r : HostReg) (s : State) :
    exec (.regrd r.offset) s = .next (recordRead r.offset (r.value s) s) :=
  execRegrd_next.2 ⟨aligned_offset r, by rw [ofOffset_offset]; rfl⟩

/-! ### CTRL -/

theorem exec_regwr_ctrl (data : U32) (s : State) : exec (.regwr 0x0C data) s = .next (ctrlWrite data s) :=
  exec_regwr_offset .ctrl data s

theorem ctrlWrite_of_off {data : U32} (h : data.getLsbD 0 = false) (s : State) :
    ctrlWrite data s = { s with en := false } :=
  if_pos h

theorem ctrlWrite_of_enabled {data : U32} (h : data.getLsbD 0 = true) (hen : s.en = true) : ctrlWrite data s = s := by
  simp [ctrlWrite, h, hen]

theorem ctrlWrite_of_ordered {data : U32} (h : data.getLsbD 0 = true) (hen : s.en = false) (ht : s.t1 < s.t2) :
    ctrlWrite data s = { s with en := true } := by
  simp [ctrlWrite, h, hen, thresholdsOrdered, ht]

theorem ctrlWrite_of_unordered {data : U32} (h : data.getLsbD 0 = true) (hen : s.en = false) (ht : ¬ s.t1 < s.t2) :
    ctrlWrite data s = { s with badcfg := true } := by
  simp [ctrlWrite, h, hen, thresholdsOrdered, ht]

/-- Settles O39: the four clauses are the four branches of CTRL_WRITE. -/
theorem ctrlWriteEnablesOrderedThresholds : Obligations.CtrlWriteEnablesOrderedThresholds := by
  intro data s
  rw [exec_regwr_ctrl]
  refine ⟨fun hoff => ?_, fun hon hen hlt => ?_, fun hon hen hle => ?_, fun hon hen => ?_⟩
  · rw [ctrlWrite_of_off hoff]
  · rw [ctrlWrite_of_ordered hon hen hlt]
  · rw [ctrlWrite_of_unordered hon hen (Nat.not_lt.2 hle)]
  · rw [ctrlWrite_of_enabled hon hen]

/-! ### The thresholds -/

theorem lockedWrite_of_enabled (hen : s.en = true) (set : State) : lockedWrite set s = { s with cfgwe := true } :=
  if_pos hen

theorem lockedWrite_of_disabled (hen : s.en = false) (set : State) : lockedWrite set s = set :=
  if_neg (by rw [hen]; decide)

/-- Settles O40: at each of the three offsets the write is `lockedWrite`, which looks at EN first. -/
theorem thresholdWritesAreLocked : Obligations.ThresholdWritesAreLocked := by
  intro data s
  have h1 : exec (.regwr 0x14 data) s = .next (lockedWrite { s with t1 := data } s) := exec_regwr_offset .t1 data s
  have h2 : exec (.regwr 0x18 data) s = .next (lockedWrite { s with t2 := data } s) := exec_regwr_offset .t2 data s
  have htrig : exec (.regwr 0x1C data) s = .next (lockedWrite { s with trig := data } s) :=
    exec_regwr_offset .trig data s
  constructor
  · intro hen
    simp only [lockedWrite_of_enabled hen] at h1 h2 htrig
    simpa using ⟨h1, h2, htrig⟩
  · intro hen
    simp only [lockedWrite_of_disabled hen] at h1 h2 htrig
    exact ⟨h1, h2, htrig⟩

/-! ### STATUS -/

theorem writeOneToClear_eq_ite (flag bit : Bool) : writeOneToClear flag bit = if bit then false else flag := by
  cases bit <;> simp [writeOneToClear]

/-- Settles O41: STATUS_WRITE clears each flag by its own bit of the data. -/
theorem statusWriteOneClears : Obligations.StatusWriteOneClears := by
  intro data s
  have hexec : exec (.regwr 0x10 data) s = .next (statusWrite data s) := exec_regwr_offset .status data s
  rw [hexec, statusWrite]
  simp only [writeOneToClear_eq_ite]

/-! ### Reads -/

theorem ctrlWord_eq (s : State) : ctrlWord s = if s.en then 1#32 else 0#32 := by
  rw [ctrlWord]
  cases s.en <;> rfl

theorem statusWord_eq (s : State) : statusWord s =
    (if s.overrun then 4#32 else 0#32) + (if s.cfgwe then 2#32 else 0#32) + (if s.badcfg then 1#32 else 0#32) := by
  rw [statusWord]
  cases s.overrun <;> cases s.cfgwe <;> cases s.badcfg <;> rfl

/-- The word of PARAM_M (10_state.md R33). -/
theorem paramMWord_eq (e : EmitMode) (a : AnchorMode) :
    0#30 ++ BitVec.ofBool (emitModeBit e) ++ BitVec.ofBool (anchorModeBit a) =
      (if e = .onDecrement then 2#32 else 0#32) + (if a = .atSample then 1#32 else 0#32) := by
  cases e <;> cases a <;> rfl

theorem extractLsb'_low_word (x : U64) : x.extractLsb' 0 32 = x.setWidth 32 :=
  (BitVec.setWidth_eq_extractLsb' (by decide)).symm

theorem extractLsb'_high_word (x : U64) : x.extractLsb' 32 32 = (x >>> 32).setWidth 32 := by
  apply BitVec.eq_of_toNat_eq
  simp [BitVec.extractLsb'_toNat]

theorem append_zero_high_half (x : U16) : 0#16 ++ x = x.setWidth 32 :=
  (BitVec.setWidth_eq_append (w := 32) (v := 16) (by decide)).symm

/-- No register stands past LASTWC (10_state.md R39). -/
theorem ofOffset_of_reserved {off : U8} (h : 0x3C ≤ off.toNat) : HostReg.ofOffset off = none := by
  cases hr : HostReg.ofOffset off with
  | none => rfl
  | some r =>
    rw [← offset_of_ofOffset hr] at h
    cases r <;> exact absurd h (by decide)

/-- Settles O43: the listed pairs are every register's offset and value, and no register stands at a reserved offset. -/
theorem readReturnsTheRegister : Obligations.ReadReturnsTheRegister := by
  intro s
  constructor
  · intro p hp
    have hmap : p ∈ HostReg.all.map fun r => (r.offset, r.value s) := by
      simp only [HostReg.all, List.map_cons, List.map_nil, HostReg.value, paramMWord_eq, ctrlWord_eq, statusWord_eq,
        extractLsb'_low_word, extractLsb'_high_word, append_zero_high_half]
      exact hp
    obtain ⟨r, -, rfl⟩ := List.mem_map.1 hmap
    exact exec_regrd_offset r s
  · intro off hreserved haligned
    exact execRegrd_next.2 ⟨(aligned_iff off).2 haligned, by rw [ofOffset_of_reserved hreserved]; rfl⟩

end Sys2Proof.Machine
end

section
/-! The consumer sequencer (45_sequencer_host.md R185 to R187, R196): when it has a step, what a step without a trigger
changes, the operations a fired trigger runs one by one, and that the producer's part of the state does not enter. -/

namespace Sys2Proof.Machine

variable {s t : State} {iv : U32} {rest : List U32}

/-! ### When the consumer has a step (R185) -/

theorem consumerEnabled_iff (s : State) :
    consumerEnabled s = true ↔ s.en = true ∧ s.chan ≠ [] ∧ s.refused = false := by
  simp [consumerEnabled, and_assoc]

theorem exec_cstep_of_held (h : consumerEnabled s ≠ true) : exec .cstep s = .fault .consumerHeld := if_neg h

/-- Settles O35: `consumerEnabled` decides the stated condition. -/
theorem consumerStepsExactlyWhenEnabled : Obligations.ConsumerStepsExactlyWhenEnabled := by
  intro s
  rw [← consumerEnabled_iff]
  refine ⟨⟨fun ⟨t, ht⟩ => ?_, fun henabled => ⟨consumerStep s, execCstep_next.2 ⟨henabled, rfl⟩⟩⟩, exec_cstep_of_held⟩
  exact (execCstep_next.1 ht).1

/-! ### A step without a trigger (R186) -/

theorem chanHead_of_ready (h : Ready s iv rest) : chanHead s = iv := by
  obtain ⟨-, -, hchan⟩ := h
  rw [chanHead, hchan, List.headD_cons]

theorem receivePush_of_ready (h : Ready s iv rest) : receivePush s = trigchk iv (push iv (chrecv s)) := by
  rw [receivePush, chanHead_of_ready h]

theorem exec_cstep_of_not_fires (h : Ready s iv rest) (hf : ¬ s.trig < iv) :
    exec .cstep s = .next (receivePush s) := by
  have hno : ¬ fires (chanHead s) s.trig = true := by rwa [chanHead_of_ready h, fires_iff]
  rw [exec_cstep_of_ready h, consumerStep, if_neg hno]

/-- Settles O36: the step is CHRECV, PUSH and a TRIGCHK that does not fire. -/
theorem cstepWithoutTriggerOnlyPushes : Obligations.CstepWithoutTriggerOnlyPushes := by
  intro s iv rest hw hready hf
  have ⟨_, _, hchan⟩ := hready
  obtain ⟨-, hcursor, -⟩ := hw
  rw [exec_cstep_of_not_fires hready hf, receivePush_of_ready hready,
    trigchk_of_not_fires (s := push iv (chrecv s)) hf, chrecv_of_cons hchan, push,
    ringWrite_of_lt (s := { s with chan := rest, labels := s.labels ++ [.chrecv iv] }) iv hcursor]
  simp [advance, field16]

/-! ### The operations of a fired trigger (R145, R186) -/

theorem execAll_append {is : List Instr} (h : execAll is s = .next t) (js : List Instr) :
    execAll (is ++ js) s = execAll js t := by
  induction is generalizing s with
  | nil => cases h; rfl
  | cons i is ih =>
    rw [List.cons_append, execAll]
    rw [execAll] at h
    split at h
    next u hu => exact ih h
    next => cases h
    next => cases h

theorem receivePush_anchor (h : Ready s iv rest) (hf : s.trig < iv) : (receivePush s).anchor = triggerAnchor s := by
  rw [receivePush_of_ready h, trigchk_of_fires (s := push iv (chrecv s)) hf]
  cases hmode : s.cfg.anchorMode <;> simp [anchorFor, triggerAnchor, advance, hmode]

/-- R140's cases in the order of the statement are the comparator's, HIGH first. -/
theorem symbolOf_eq_classify (t1 t2 x : U32) : symbolOf t1 t2 x = classify t1 t2 x := by
  by_cases h2 : t2 < x
  · simp [symbolOf, classify_high h2, h2, BitVec.not_le.2 h2]
  · by_cases h1 : t1 < x
    · simp [symbolOf, classify_mid h2 h1, BitVec.not_lt.1 h2, BitVec.not_le.2 h1]
    · simp [symbolOf, classify_low h2 h1, h2, BitVec.not_lt.1 h1]

/-- The four operations on sample `x` at window index `k`: one element's share of `sampleOps`. -/
def sampleBlock (t1 t2 : U32) (k : Nat) (x : U32) : List Instr :=
  [.winrd (BitVec.ofNat 16 k) 0, .classify .low x, .pairstep (symbolOf t1 t2 x) .none 0 false false false,
    .emitchk false 0 0]

/-- The operations on a window, by window index. -/
theorem sampleOps_window (t1 t2 : U32) (s : State) : sampleOps t1 t2 (window s) =
    (List.range s.cfg.n).flatMap fun k => sampleBlock t1 t2 k (windowSample k s) := by
  have hindexed : (window s).zipIdx = (List.range s.cfg.n).map fun k => (windowSample k s, k) := by
    apply List.ext_getElem <;> simp [window]
  rw [sampleOps, hindexed, List.flatMap_map]
  rfl

theorem execAll_sampleBlock (s : State) {k : Nat} (hk : k < 2 ^ 16) :
    execAll (sampleBlock s.t1 s.t2 k (windowSample k s)) s = .next (decodeSample s k) := by
  simp only [sampleBlock, execAll, exec_winrd, exec_classify, exec_pairstep, exec_emitchk, BitVec.toNat_ofNat,
    Nat.mod_eq_of_lt hk, symbolOf_eq_classify, decodeSample]

/-- No sample's operations touch the window or the thresholds, so each block finds the sample it was made for. -/
theorem execAll_sampleBlocks (ks : List Nat) (s : State) (hks : ∀ k ∈ ks, k < 2 ^ 16) :
    execAll (ks.flatMap fun k => sampleBlock s.t1 s.t2 k (windowSample k s)) s =
      .next (ks.foldl decodeSample s) := by
  induction ks generalizing s with
  | nil => rfl
  | cons k ks ih =>
    obtain ⟨hk, hks⟩ := List.forall_mem_cons.1 hks
    rw [List.flatMap_cons, execAll_append (execAll_sampleBlock s hk), List.foldl_cons, ← ih (decodeSample s k) hks]
    simp only [windowSample_decodeSample, decodeSample_t1, decodeSample_t2]

theorem execAll_sampleOps_window (s : State) (hn : s.cfg.n ≤ 2 ^ 16) :
    execAll (sampleOps s.t1 s.t2 (window s)) s = .next ((List.range s.cfg.n).foldl decodeSample s) := by
  rw [sampleOps_window]
  exact execAll_sampleBlocks _ s fun k hk => Nat.lt_of_lt_of_le (List.mem_range.1 hk) hn

/-- DECINIT and the samples' operations, one by one, are DECODE. -/
theorem execAll_decode (s : State) (hn : s.cfg.n ≤ 2 ^ 16) :
    execAll (.decinit (field16 s.anchor) :: sampleOps s.t1 s.t2 (window s)) s = .next (decodeWindow s) :=
  execAll_sampleOps_window (decinit (field16 s.anchor) s) hn

theorem execAll_receivePush (h : Ready s iv rest) (slot : U16) (fired : Bool) (anchor : U16) :
    execAll [.chrecv iv, .push slot iv, .trigchk fired anchor iv] s = .next (receivePush s) := by
  have ⟨_, _, hchan⟩ := h
  have hne : s.chan ≠ [] := hchan ▸ List.cons_ne_nil iv rest
  rw [receivePush_of_ready h]
  simp only [execAll, exec_chrecv_of_ne_nil iv hne, exec_push, exec_trigchk]

/-- The operations of a fired trigger, but for OUTPUT, run one by one. -/
theorem execAll_trigger (hn : s.cfg.n ≤ 2 ^ 16) (hw : Memory.wf s) (h : Ready s iv rest) (hf : s.trig < iv) :
    execAll ([.chrecv iv, .push 0 iv, .trigchk true 0 iv, .decinit (field16 (triggerAnchor s))] ++
      sampleOps s.t1 s.t2 (triggerWindow s iv) ++ [.extract 0 0]) s =
      .next (extract (decodeWindow (receivePush s))) := by
  have hdecode := execAll_decode (receivePush s) hn
  rw [receivePush_anchor h hf, window_receivePush hw h hf] at hdecode
  have hrun := (execAll_append (execAll_receivePush h 0 true 0) _).trans hdecode
  exact execAll_append hrun [.extract 0 0]

/-- LASTWC is written before EXTRACT, which does not read it. -/
theorem extract_latchWordCount (s : State) :
    extract (latchWordCount s) = { extract s with lastwc := field16 s.dec.wc } := rfl

/-- Settles O37: both runs lead to EXTRACT after DECODE, and whether OUTPUT follows is `outputReading`'s test. -/
theorem cstepOnTriggerRunsItsOperations : Obligations.CstepOnTriggerRunsItsOperations := by
  intro s iv rest hcfg hw hready hf
  obtain ⟨-, hn, -⟩ := (Config.wf_iff s.cfg).1 hcfg
  refine ⟨_, execAll_trigger (by omega) hw hready hf, fun hone => ?_, fun htwo => ⟨_, exec_output .., ?_⟩⟩
  · rw [exec_cstep_of_fires hready hf, runTrigger, extract_latchWordCount, outputReading, if_neg hone]
    rfl
  · rw [exec_cstep_of_fires hready hf, runTrigger, extract_latchWordCount, outputReading, if_pos htwo]
    rfl

/-! ### The part of the state a consumer step works on (R187) -/

/-- The hardware without the producer's part, `last` and the channel: of the channel a consumer step needs the head
alone. -/
def State.consumerPart (s : State) : State := { s.hardware with last := 0, chan := [] }

theorem hardware_eq_of_consumerPart (h : s.consumerPart = t.consumerPart) (hlast : s.last = t.last) :
    s.hardware = { t.hardware with chan := s.chan } := by
  have hback (u : State) : u.hardware = { u.consumerPart with last := u.last, chan := u.chan } := rfl
  rw [hback s, hback t, h, hlast]

theorem consumerPart_captureEdge (now : U32) (s : State) : (captureEdge now s).consumerPart = s.consumerPart := rfl

theorem consumerPart_decodeSample (s : State) (k : Nat) :
    (decodeSample s k).consumerPart = (decodeSample s.consumerPart k).consumerPart := rfl

theorem consumerPart_foldl_decodeSample (ks : List Nat) (s : State) :
    (ks.foldl decodeSample s).consumerPart = (ks.foldl decodeSample s.consumerPart).consumerPart := by
  induction ks generalizing s with
  | nil => rfl
  | cons k ks ih =>
    rw [List.foldl_cons, List.foldl_cons, ih, consumerPart_decodeSample, ← ih]

theorem consumerPart_decodeWindow (s : State) :
    (decodeWindow s).consumerPart = (decodeWindow s.consumerPart).consumerPart := by
  rw [decodeWindow, consumerPart_foldl_decodeSample, decodeWindow,
    consumerPart_foldl_decodeSample _ (decinit (field16 s.consumerPart.anchor) s.consumerPart)]
  rfl

theorem consumerPart_outputReading (s : State) :
    (outputReading s).consumerPart = (outputReading s.consumerPart).consumerPart := by
  obtain ⟨hn, e⟩ | ⟨hn, e⟩ := outputReading_cases s
  · rw [e, outputReading, if_pos (show s.consumerPart.col.n = 2 from hn)]
    rfl
  · rw [e, outputReading, if_neg (show ¬ s.consumerPart.col.n = 2 from hn)]
    rfl

theorem consumerPart_extract_latchWordCount (s : State) : (extract (latchWordCount s)).consumerPart =
    (extract (latchWordCount s.consumerPart)).consumerPart := rfl

theorem consumerPart_runTrigger (s : State) :
    (runTrigger s).consumerPart = (runTrigger s.consumerPart).consumerPart := by
  simp only [runTrigger]
  rw [consumerPart_outputReading, consumerPart_extract_latchWordCount, consumerPart_decodeWindow,
    ← consumerPart_extract_latchWordCount, ← consumerPart_outputReading]

theorem consumerPart_receivePush (s : State) : (receivePush s).consumerPart =
    (trigchk (chanHead s) (push (chanHead s) s.consumerPart)).consumerPart := rfl

/-- A consumer step reads the head of the channel and nothing else of the producer's part. -/
theorem consumerPart_consumerStep_congr (h : s.consumerPart = t.consumerPart) (hhead : chanHead s = chanHead t) :
    (consumerStep s).consumerPart = (consumerStep t).consumerPart := by
  have htrig : s.trig = t.trig := congrArg (fun u => u.trig) h
  have hreceive : (receivePush s).consumerPart = (receivePush t).consumerPart := by
    rw [consumerPart_receivePush, consumerPart_receivePush, h, hhead]
  rw [consumerStep, consumerStep, hhead, htrig]
  split
  · rw [consumerPart_runTrigger, consumerPart_runTrigger (receivePush t), hreceive]
  · exact hreceive

/-! ### EDGE and CSTEP in either order (R187) -/

/-- An edge only appends to the channel, so a ready consumer stays ready with the same interval. -/
theorem ready_captureEdge_append (h : Ready s iv rest) (now : U32) :
    ∃ xs, Ready (captureEdge now s) iv (rest ++ xs) := by
  obtain ⟨hen, hrefused, hchan⟩ := h
  rcases Nat.lt_or_ge s.chan.length s.cfg.c with hroom | hfull
  · exact ⟨[now - s.last], hen, hrefused, by rw [captureEdge_of_room now hroom, hchan, List.cons_append]⟩
  · exact ⟨[], hen, hrefused, by rw [captureEdge_of_full now hfull, hchan, List.append_nil]⟩

/-- The two orders agree on everything but the channel. -/
theorem hardware_edge_after_cstep (h : Ready s iv rest) (now : U32) : (captureEdge now (consumerStep s)).hardware =
    { (consumerStep (captureEdge now s)).hardware with chan := (captureEdge now (consumerStep s)).chan } := by
  obtain ⟨xs, hafter⟩ := ready_captureEdge_append h now
  have hhead : chanHead s = chanHead (captureEdge now s) :=
    (chanHead_of_ready h).trans (chanHead_of_ready hafter).symm
  apply hardware_eq_of_consumerPart
  · rw [consumerPart_captureEdge]
    exact consumerPart_consumerStep_congr (consumerPart_captureEdge now s).symm hhead
  · rw [captureEdge_last, consumerStep_last, captureEdge_last]

/-- After the step the edge finds room, in the slot that was free or in the one the step freed. -/
theorem chan_edge_after_cstep (h : Ready s iv rest) (hlength : s.chan.length ≤ s.cfg.c) (now : U32) :
    (captureEdge now (consumerStep s)).chan = rest ++ [now - s.last] := by
  rw [captureEdge_of_room now (consumerStep_has_room h hlength), consumerStep_chan_of_ready h, consumerStep_last]

/-- Settles O38: the two orders differ in the channel at most, and there by what the edge of the first order could
send. -/
theorem edgeAndCstepCommute : Obligations.EdgeAndCstepCommute := by
  intro s now iv rest hready hlength
  obtain ⟨xs, hafter⟩ := ready_captureEdge_append hready now
  have ⟨hen, _, hchan⟩ := hready
  have hstill : (consumerStep s).en = true := by rw [consumerStep_en, hen]
  refine ⟨consumerStep (captureEdge now s), captureEdge now (consumerStep s), ?_, ?_, fun hroom => ?_,
    fun hfull => ?_⟩
  · simp only [execAll, exec_edge_of_enabled hen, exec_cstep_of_ready hafter]
  · simp only [execAll, exec_cstep_of_ready hready, exec_edge_of_enabled hstill]
  · have hsent : (consumerStep (captureEdge now s)).chan = rest ++ [now - s.last] := by
      rw [consumerStep_chan, captureEdge_of_room now hroom, hchan, List.cons_append, List.tail_cons]
    rw [hardware_edge_after_cstep hready, chan_edge_after_cstep hready hlength, ← hsent]
    rfl
  · have hdropped : (consumerStep (captureEdge now s)).chan = rest := by
      rw [consumerStep_chan, captureEdge_of_full now hfull.ge, hchan, List.tail_cons]
    rw [hardware_edge_after_cstep hready, chan_edge_after_cstep hready hlength, hdropped]

/-! ### Disabling and enabling again (R196) -/

/-- Settles O44: the write of 0 clears EN alone, the disabled block ignores the edge and holds the consumer, and the
write of 1 sets EN alone. -/
theorem disableAndReenableResume : Obligations.DisableAndReenableResume := by
  intro s off on now hen hlt hoff hon
  have hdisable : exec (.regwr 0x0C off) s = .next { s with en := false } := by
    rw [exec_regwr_ctrl, ctrlWrite_of_off hoff]
  have hedge : exec (.edge now) { s with en := false } = .next { s with en := false } := exec_edge_of_disabled rfl now
  have henable : exec (.regwr 0x0C on) { s with en := false } = .next s := by
    rw [exec_regwr_ctrl, ctrlWrite_of_ordered (s := { s with en := false }) hon rfl hlt, ← hen]
  refine ⟨?_, exec_cstep_of_held (by simp [consumerEnabled]), ?_⟩
  · simp only [execAll, hdisable, hedge]
  · simp only [execAll, hdisable, hedge, henable]

end Sys2Proof.Machine
end

section
/-! The conditions (60_exceptions.md R212, R213): for each, the operation and the state that meet it, and from those
what the operation records. -/

namespace Sys2Proof.Machine

variable {i : Instr} {s : State}

/-! ### When an operation meets a condition -/

theorem metBy_drop_iff :
    Condition.drop.metBy i s = true ↔ (∃ acc iv, i = .chsend acc iv) ∧ s.cfg.c ≤ s.chan.length := by
  cases i <;> simp [Condition.metBy, chanAccepts]

theorem metBy_underflow_iff : Condition.underflow.metBy i s = true ↔
    (∃ n wc, i = .extract n wc) ∧ (collectAll (emittedWords s.dec)).n < 2 := by
  cases i <;> simp [Condition.metBy]

theorem metBy_trunc_iff : Condition.trunc.metBy i s = true ↔
    (∃ e sl v, i = .emitchk e sl v) ∧ s.dec.bitpos = 0 ∧ s.dec.acc ≠ 0 ∧ s.dec.wc = s.cfg.w := by
  cases i <;> simp [Condition.metBy, and_assoc]

theorem metBy_overrun_iff : Condition.overrun.metBy i s = true ↔
    ∃ sym y bp c b o, i = .pairstep sym y bp c b o ∧ (pairResult sym s.dec).ov = true := by
  cases i <;> simp [Condition.metBy]

theorem ofOffset_eq_some_iff (off : U8) (r : HostReg) : HostReg.ofOffset off = some r ↔ off = r.offset :=
  ⟨fun h => (offset_of_ofOffset h).symm, fun h => h ▸ ofOffset_offset r⟩

theorem metBy_badcfg_iff : Condition.badcfg.metBy i s = true ↔
    ∃ data, i = .regwr 0x0C data ∧ data.getLsbD 0 = true ∧ s.en = false ∧ ¬ s.t1 < s.t2 := by
  cases i with
  | regwr off data =>
    simp [Condition.metBy, ofOffset_eq_some_iff, HostReg.offset, thresholdsOrdered, and_assoc]
  | _ => simp [Condition.metBy]

theorem metBy_cfgwe_iff : Condition.cfgwe.metBy i s = true ↔
    (∃ r : HostReg, (r = .t1 ∨ r = .t2 ∨ r = .trig) ∧ ∃ data, i = .regwr r.offset data) ∧ s.en = true := by
  cases i with
  | regwr off data => simp [Condition.metBy, ofOffset_eq_some_iff, or_assoc]
  | _ => simp [Condition.metBy]

/-! ### What the operation then records -/

/-- A full word buffer lets EMITCHK emit nothing (R144). -/
theorem emits_of_full (h : s.dec.wc = s.cfg.w) : emits s.cfg s.dec = false :=
  Bool.eq_false_iff.2 fun he => by
    obtain ⟨-, -, hroom, -⟩ := (emits_iff s.cfg s.dec).1 he
    omega

theorem regWrite_of_locked {r : HostReg} (hr : r = .t1 ∨ r = .t2 ∨ r = .trig) (hen : s.en = true) (data : U32) :
    regWrite (some r) data s = { s with cfgwe := true } := by
  obtain rfl | rfl | rfl := hr <;> exact lockedWrite_of_enabled hen _

/-- Settles O47: each condition fixes the operation that meets it, and that operation's own lemma says the effect. -/
theorem conditionsRecordWhatTheTableSays : Obligations.ConditionsRecordWhatTheTableSays := by
  intro i s
  simp only [metBy_drop_iff, metBy_trunc_iff, metBy_underflow_iff, metBy_overrun_iff, metBy_badcfg_iff,
    metBy_cfgwe_iff]
  refine ⟨?_, ?_, ?_, ?_, ?_⟩
  · rintro (⟨⟨acc, iv, rfl⟩, hfull⟩ | ⟨⟨e, sl, v, rfl⟩, -, -, hfull⟩)
    · exact ⟨_, by rw [exec_chsend, chsend_of_full iv hfull]⟩
    · exact ⟨_, by rw [exec_emitchk, emitchk_of_not (emits_of_full hfull)]⟩
  · rintro ⟨⟨n, wc, rfl⟩, hfew⟩
    exact ⟨_, _, exec_extract n wc s, hfew⟩
  · rintro ⟨sym, y, bp, c, b, o, rfl, hov⟩
    have hflag : (pairstep sym s).overrun = true := by simp [hov]
    exact ⟨_, exec_pairstep sym y bp c b o s, hflag⟩
  · rintro ⟨data, rfl, hon, hen, hle⟩
    exact ⟨by rw [exec_regwr_ctrl, ctrlWrite_of_unordered hon hen hle], hen⟩
  · rintro ⟨⟨r, hr, data, rfl⟩, hen⟩
    rw [exec_regwr_offset, regWrite_of_locked hr hen]

end Sys2Proof.Machine
end

section
/-! How a run ends (70_reset_and_hazards.md R242): what a step of a runnable state can answer, and the run of a program
as steps that each use up some of its words. -/

namespace Sys2Proof.Machine

variable {s : State}

/-! ### What a step of a runnable state answers -/

/-- A stimulus operation without a next state is a held CSTEP or a misaligned register access. -/
theorem exec_stimulus_cases {i : Instr} (hi : i.isStimulus = true) (s : State) :
    (∃ t, exec i s = .next t) ∨
      (i = .cstep ∧ consumerEnabled s ≠ true ∧ exec i s = .fault .consumerHeld) ∨
      exec i s = .refused .misaligned := by
  obtain ⟨now, rfl⟩ | rfl | ⟨off, data, rfl⟩ | ⟨off, rfl⟩ | rfl := Instr.isStimulus_cases hi
  · exact .inl ⟨_, execEdge_next.2 rfl⟩
  · by_cases henabled : consumerEnabled s = true
    · exact .inl ⟨_, execCstep_next.2 ⟨henabled, rfl⟩⟩
    · exact .inr (.inl ⟨rfl, henabled, exec_cstep_of_held henabled⟩)
  · by_cases hoff : off.toNat % 4 = 0
    · exact .inl ⟨_, execRegwr_next.2 ⟨(aligned_iff off).2 hoff, rfl⟩⟩
    · exact .inr (.inr (execRegwr_of_misaligned hoff data s))
  · by_cases hoff : off.toNat % 4 = 0
    · exact .inl ⟨_, execRegrd_next.2 ⟨(aligned_iff off).2 hoff, rfl⟩⟩
    · exact .inr (.inr (execRegrd_of_misaligned hoff s))
  · exact .inl ⟨_, rfl⟩

theorem en_or_chan_of_held (hrefused : s.refused = false) (h : consumerEnabled s ≠ true) :
    s.en = false ∨ s.chan = [] := by
  rw [ne_eq, consumerEnabled_iff] at h
  by_contra hready
  rw [not_or, Bool.not_eq_false] at hready
  obtain ⟨hen, hchan⟩ := hready
  exact h ⟨hen, hchan, hrefused⟩

/-- Every operation has a first word, so decoding one leaves fewer words. -/
theorem length_lt_of_decode_ok {ws rest : List U64} {i : Instr} (h : decode ws = .ok (i, rest)) :
    rest.length < ws.length := by
  obtain ⟨-, hwords⟩ := encodeInvertsDecode ws i rest h
  rw [← hwords, encode, List.cons_append, List.length_cons, List.length_append]
  omega

theorem refusalOf_ne_badParam (e : DecodeError) : refusalOf e ≠ .badParam := by
  cases e <;> simp [refusalOf]

theorem step_of_empty (hr : Runnable s) (hs : s.stim = []) : step s = .fault .completed := by
  obtain ⟨hrefused, hcfg⟩ := hr
  simp [step, fetch, hrefused, hcfg, hs]

/-- What the step of a runnable state can answer: the three ways its run goes no further, or a runnable state with
fewer words to run. -/
inductive StepAnswer (s : State) : Prop where
  | completed (hstim : s.stim = []) (hstep : step s = .fault .completed)
  | held (rest : List U64) (hword : decode s.stim = .ok (.cstep, rest)) (hconsumer : s.en = false ∨ s.chan = [])
      (hstep : step s = .fault .consumerHeld)
  | refused (r : Refusal) (hreason : r ≠ .badParam) (hstep : step s = .refused r)
  | next (t : State) (hrunnable : Runnable t) (hfewer : t.stim.length < s.stim.length) (hstep : step s = .next t)

theorem stepAnswer_of_stimulus {i : Instr} {rest : List U64} (hr : Runnable s) (hd : decode s.stim = .ok (i, rest))
    (hi : i.isStimulus = true) : StepAnswer s := by
  have hstep := stepRunsTheDecodedStimulus s i rest hr hd hi
  have ⟨hrefused, hcfg⟩ := hr
  obtain ⟨t, ht⟩ | ⟨rfl, hheld, hfault⟩ | hmisaligned := exec_stimulus_cases hi { s with stim := rest }
  · obtain ⟨hkept, -⟩ := eachAgentWritesItsOwnState i _ t hi ht
    obtain ⟨hc, hm, hrest⟩ : t.cfg = s.cfg ∧ t.refused = s.refused ∧ t.stim = rest := by simpa using hkept
    exact .next t ⟨hm.trans hrefused, hc ▸ hcfg⟩ (hrest ▸ length_lt_of_decode_ok hd) (hstep.trans ht)
  · exact .held rest hd (en_or_chan_of_held (s := { s with stim := rest }) hrefused hheld) (hstep.trans hfault)
  · exact .refused .misaligned (by decide) (hstep.trans hmisaligned)

theorem stepAnswer_of_runnable (hr : Runnable s) : StepAnswer s := by
  cases hs : s.stim with
  | nil => exact .completed hs (step_of_empty hr hs)
  | cons w ws =>
    cases hd : decode (w :: ws) with
    | error e => exact .refused _ (refusalOf_ne_badParam e) (step_of_decode_error hr hs hd)
    | ok p =>
      obtain ⟨i, rest⟩ := p
      cases hi : i.isStimulus with
      | false => exact .refused .notStimulus (by decide) (step_of_label hr (hs ▸ hd) hi)
      | true => exact stepAnswer_of_stimulus hr (hs ▸ hd) hi

/-! ### The run as steps -/

variable {k : Nat}

theorem runProgram_of_next {t : State} (h : step s = .next t) : runProgram (k + 1) s = runProgram k t := by
  rw [runProgram, h]

theorem runProgram_of_completed (h : step s = .fault .completed) : runProgram (k + 1) s = .completed s := by
  rw [runProgram, h]

theorem runProgram_of_held (h : step s = .fault .consumerHeld) : runProgram (k + 1) s = .stuck s := by
  rw [runProgram, h]

theorem runProgram_of_refused {r : Refusal} (hr : r ≠ .badParam) (h : step s = .refused r) :
    runProgram (k + 1) s = .refused r (markRefused s) := by
  rw [runProgram, h]
  cases r
  case badParam => exact absurd rfl hr
  all_goals rfl

theorem runProgram_of_badParam (h : step s = .refused .badParam) :
    runProgram (k + 1) s = .illConfigured (markRefused s) := by
  rw [runProgram, h]

/-- The ends (a), (b) and (c) of R242, with what is known of the state there. -/
inductive Finished : RunEnd → Prop where
  | completed {t : State} (hstim : t.stim = []) (hrefused : t.refused = false) : Finished (.completed t)
  | stuck {t : State} (rest : List U64) (hword : decode t.stim = .ok (.cstep, rest))
      (hconsumer : t.en = false ∨ t.chan = []) : Finished (.stuck t)
  | refused {r : Refusal} {t : State} (hmark : t.refused = true) : Finished (.refused r t)

/-- Every step that goes on uses up a word, so steps for each of them and one more reach an end. -/
theorem finished_runProgram (hr : Runnable s) (hk : s.stim.length < k) : Finished (runProgram k s) := by
  induction k generalizing s with
  | zero => exact absurd hk (Nat.not_lt_zero _)
  | succ k ih =>
    cases stepAnswer_of_runnable hr with
    | completed hstim hstep =>
      rw [runProgram_of_completed hstep]
      exact .completed hstim hr.1
    | held rest hword hconsumer hstep =>
      rw [runProgram_of_held hstep]
      exact .stuck rest hword hconsumer
    | refused r hreason hstep =>
      rw [runProgram_of_refused hreason hstep]
      exact .refused (markRefused_refused s)
    | next t hrunnable hfewer hstep =>
      rw [runProgram_of_next hstep]
      exact ih hrunnable (by omega)

/-- Settles O10: an ill-formed configuration is refused by the first step, and under a well-formed one the run is
finished within its words. -/
theorem everyProgramEndsInOneOfFourWays : Obligations.EveryProgramEndsInOneOfFourWays := by
  intro s hrefused
  cases hcfg : s.cfg.wf with
  | false => exact .inr (.inr (.inr ⟨runProgram_of_badParam (step_of_illConfigured hrefused hcfg), rfl⟩))
  | true =>
    have hend := finished_runProgram ⟨hrefused, hcfg⟩ (Nat.lt_succ_self s.stim.length)
    generalize runProgram (s.stim.length + 1) s = e at hend ⊢
    cases hend with
    | completed hstim hunrefused => exact .inl ⟨_, rfl, hstim, hunrefused, rfl⟩
    | stuck rest hword hconsumer => exact .inr (.inl ⟨_, rest, rfl, hword, hconsumer, rfl⟩)
    | refused hmark => exact .inr (.inr (.inl ⟨_, _, rfl, hmark, rfl⟩))

end Sys2Proof.Machine
end

section
/-! Registers that change in one way only (70_reset_and_hazards.md R235, R237): the registers of the latest reading, with
the output history, and the thresholds, by a host write while EN = 0. -/

namespace Sys2Proof.Machine

variable {s t : State}

/-! ### The registers of the latest reading (R235) -/

/-- From `s` to `t` no reading was handed out, or one: R235 of two states. -/
def AtMostOneReading (s t : State) : Prop :=
  (t.outs = s.outs ∧ t.rda = s.rda ∧ t.rdb = s.rdb ∧ t.rdcnt = s.rdcnt) ∨
    (t.outs = s.outs ++ [(t.rda, t.rdb)] ∧ t.rdcnt = s.rdcnt + 1)

theorem AtMostOneReading.rfl : AtMostOneReading s s := .inl ⟨.refl _, .refl _, .refl _, .refl _⟩

theorem atMostOneReading_output (a b : U64) (s : State) : AtMostOneReading s (output a b s) := .inr ⟨rfl, rfl⟩

theorem atMostOneReading_outputReading (s : State) : AtMostOneReading s (outputReading s) := by
  obtain ⟨-, e⟩ | ⟨-, e⟩ := outputReading_cases s <;> rw [e]
  · exact atMostOneReading_output _ _ s
  · exact .rfl

/-- Before its OUTPUT a fired trigger leaves the history and the registers alone. -/
theorem atMostOneReading_runTrigger (s : State) : AtMostOneReading s (runTrigger s) := by
  have h := atMostOneReading_outputReading (extract (latchWordCount (decodeWindow s)))
  rw [runTrigger]
  simpa only [AtMostOneReading, extract_outs, extract_rda, extract_rdb, extract_rdcnt, latchWordCount_outs,
    latchWordCount_rda, latchWordCount_rdb, latchWordCount_rdcnt, decodeWindow_outs, decodeWindow_rda,
    decodeWindow_rdb, decodeWindow_rdcnt] using h

theorem atMostOneReading_consumerStep (s : State) : AtMostOneReading s (consumerStep s) := by
  obtain ⟨-, e⟩ | ⟨-, e⟩ := consumerStep_cases s <;> rw [e]
  · exact atMostOneReading_runTrigger (receivePush s)
  · exact .rfl

theorem atMostOneReading_regWrite (r : Option HostReg) (d : U32) (s : State) :
    AtMostOneReading s (regWrite r d s) := by
  rw [regWrite_writes]
  exact .rfl

/-- Settles O34: OUTPUT, run on its own or by a fired trigger, hands out the one reading; every other operation leaves
the history and the three registers as they are. -/
theorem readingRegistersChangeTogether : Obligations.ReadingRegistersChangeTogether := by
  intro i s t hi he
  change AtMostOneReading s t
  cases i
  case edge now =>
    rw [execEdge_next.1 he]
    split <;> exact .rfl
  case cstep =>
    rw [(execCstep_next.1 he).2]
    exact atMostOneReading_consumerStep s
  case regwr off data =>
    rw [(execRegwr_next.1 he).2]
    exact atMostOneReading_regWrite _ data s
  case regrd off =>
    rw [(execRegrd_next.1 he).2]
    exact .rfl
  case reset => exact absurd rfl hi
  case chrecv iv =>
    rw [(execChrecv_next.1 he).2]
    exact .rfl
  case output a b =>
    cases he
    exact atMostOneReading_output a b s
  all_goals
    cases he
    exact .rfl

/-! ### The thresholds (R237) -/

/-- A host write that changes a threshold is a write to one, and finds EN = 0. -/
theorem regWrite_changes_threshold {r : Option HostReg} {d : U32}
    (h : ((regWrite r d s).t1, (regWrite r d s).t2, (regWrite r d s).trig) ≠ (s.t1, s.t2, s.trig)) :
    s.en = false ∧ (r = some .t1 ∨ r = some .t2 ∨ r = some .trig) := by
  obtain e | ⟨b, -, e, -⟩ | ⟨-, -, e⟩ | ⟨-, e⟩ | ⟨-, e⟩ | ⟨hen, hr, -⟩ | ⟨hen, hr, -⟩ | ⟨hen, hr, -⟩ :=
    regWrite_cases r d s
  · exact absurd (by rw [e]) h
  · exact absurd (by rw [e]) h
  · exact absurd (by rw [e]) h
  · exact absurd (by rw [e]; rfl) h
  · exact absurd (by rw [e]) h
  · exact ⟨hen, .inl hr⟩
  · exact ⟨hen, .inr (.inl hr)⟩
  · exact ⟨hen, .inr (.inr hr)⟩

theorem mem_threshold_offsets {off : U8} (h : HostReg.ofOffset off = some .t1 ∨ HostReg.ofOffset off = some .t2 ∨
    HostReg.ofOffset off = some .trig) : off ∈ [0x14#8, 0x18#8, 0x1C#8] := by
  simpa [ofOffset_eq_some_iff, HostReg.offset] using h

/-- Settles O45: of the operations but RESET only REGWR writes a threshold. -/
theorem configurationIsLockedWhileEnabled : Obligations.ConfigurationIsLockedWhileEnabled := by
  intro i s t he hi hchanged
  cases i
  case regwr off data =>
    rw [(execRegwr_next.1 he).2] at hchanged
    obtain ⟨hen, hr⟩ := regWrite_changes_threshold hchanged
    exact ⟨hen, off, data, rfl, mem_threshold_offsets hr⟩
  case reset => exact absurd rfl hi
  case edge now =>
    rw [execEdge_next.1 he] at hchanged
    split at hchanged <;> exact absurd rfl hchanged
  case cstep =>
    rw [(execCstep_next.1 he).2, consumerStep_t1, consumerStep_t2, consumerStep_trig] at hchanged
    exact absurd rfl hchanged
  case regrd off =>
    rw [(execRegrd_next.1 he).2] at hchanged
    exact absurd rfl hchanged
  case chrecv iv =>
    rw [(execChrecv_next.1 he).2] at hchanged
    exact absurd rfl hchanged
  all_goals
    cases he
    exact absurd rfl hchanged

end Sys2Proof.Machine
end

section
/-! RESET and the state a run starts in (70_reset_and_hazards.md R230, R231). -/

namespace Sys2Proof.Machine

theorem exec_reset (s : State) : exec .reset s = .next (resetBlock s) := rfl

/-- Settles O49: the operation is the shared reset, and its ring is RING_INIT slot by slot. -/
theorem resetRestoresTheRegisters : Obligations.ResetRestoresTheRegisters := by
  intro s
  rw [exec_reset, resetBlock, Config.initialRing]

/-- Settles O50: RESET sets each register it writes to the value the start state has there. -/
theorem runsStartWhereResetLeads : Obligations.RunsStartWhereResetLeads :=
  fun s => ⟨resetBlock s, exec_reset s, rfl, rfl, rfl⟩

/-- The start state: the ring is RING_INIT's, the block is disabled, the decoder stands before its first pair with no
word emitted, and the histories are empty. -/
theorem inv_init {c : Config} (h : c.wf = true) : (State.init c).Inv :=
  have hslot : 0 < c.n := ((Config.wf_iff c).1 h).1
  { config := h
    storage := Memory.wf_init h
    thresholds := nofun
    bitpos := openBitsClear_start.range
    accBelow := openBitsClear_start.below
    words := nofun
    anchor := hslot
    index := hslot
    lastWords := Nat.zero_le _
    collected := Nat.zero_le _
    readings := nofun
    history := nofun }

/-- Settles O51: State.reset is the start state of the source's example configuration, which is well formed. -/
theorem invariantHoldsAtReset : Obligations.InvariantHoldsAtReset :=
  ⟨fun _ => inv_init, inv_init (by decide)⟩

end Sys2Proof.Machine
end
